-- ==== Sys2Proof/Word.lean ====
section
/-! DEFINITION. The widths the spec works in (00_scope.md R7, R9): bytes, 16-bit words, 12-bit addresses,
4-bit fields, and the indexes of the sixteen registers and keys. -/

namespace Sys2Proof

/-- An 8-bit value: a general register, a timer, SP, a byte of memory or of the framebuffer (10_state.md R30). -/
abbrev Byte := BitVec 8

/-- A 16-bit value: PC, I, an instruction word (10_state.md R34, R37; 30_encoding.md R100). -/
abbrev Word := BitVec 16

/-- A 12-bit address of MEM (20_memory.md R70). -/
abbrev Addr := BitVec 12

/-- A 4-bit field of an instruction word (30_encoding.md R101). -/
abbrev Nibble := BitVec 4

/-- The index of a general register V0 to V15 (10_state.md R31). -/
abbrev Reg := Fin 16

/-- The number of a key, 0x0 to 0xF (10_state.md R44). -/
abbrev Key := Fin 16

/-- VF is register 15 (10_state.md R31, R32). -/
abbrev vF : Reg := 15

/-- `v[11:0]`: the low 12 bits of a 16-bit value, its use as an address (00_scope.md R11). -/
abbrev low12 (v : Word) : Addr := v.setWidth 12

/-- `zext_16` of an 8-bit value (00_scope.md R9). -/
abbrev zext16 (b : Byte) : Word := b.setWidth 16

/-- `v[15:8]` (00_scope.md R9). -/
abbrev highByte (v : Word) : Byte := v.extractLsb' 8 8

/-- `v[7:0]` (00_scope.md R9). -/
abbrev lowByte (v : Word) : Byte := v.setWidth 8

/-- `hi ++ lo`, the first operand in the high bits (00_scope.md R9). -/
abbrev joinBytes (hi lo : Byte) : Word := hi ++ lo

end Sys2Proof
end

