-- ==== Sys2Proof/Syntax.lean ====
section
/-! DEFINITION. The instructions: one constructor for each of the 34 rows of spec/opcode_table.json, in the
table's order (30_encoding.md R104). -/

namespace Sys2Proof

/-- An instruction with its operands (30_encoding.md R102, R103). Registers are indexes, `nnn` and `kk` are the
immediate fields as the word holds them, and the row count `n` of Dxyn is a number (WellFormed.lean bounds it). -/
inductive Instr where
  /-- 00E0 CLS, 44_display.md R260. -/
  | cls
  /-- 00EE RET, 41_control_flow.md R164. -/
  | ret
  /-- 1nnn JP nnn, 41_control_flow.md R161. -/
  | jp (nnn : Addr)
  /-- 2nnn CALL nnn, 41_control_flow.md R162. -/
  | call (nnn : Addr)
  /-- 3xkk SE Vx, kk, 41_control_flow.md R165. -/
  | seImm (x : Reg) (kk : Byte)
  /-- 4xkk SNE Vx, kk, 41_control_flow.md R166. -/
  | sneImm (x : Reg) (kk : Byte)
  /-- 5xy0 SE Vx, Vy, 41_control_flow.md R167. -/
  | seReg (x y : Reg)
  /-- 6xkk LD Vx, kk, 42_alu.md R192. -/
  | ldImm (x : Reg) (kk : Byte)
  /-- 7xkk ADD Vx, kk, 42_alu.md R193. -/
  | addImm (x : Reg) (kk : Byte)
  /-- 8xy0 LD Vx, Vy, 42_alu.md R194. -/
  | ldReg (x y : Reg)
  /-- 8xy1 OR Vx, Vy, 42_alu.md R195. -/
  | orReg (x y : Reg)
  /-- 8xy2 AND Vx, Vy, 42_alu.md R196. -/
  | andReg (x y : Reg)
  /-- 8xy3 XOR Vx, Vy, 42_alu.md R197. -/
  | xorReg (x y : Reg)
  /-- 8xy4 ADD Vx, Vy, 42_alu.md R200. -/
  | addReg (x y : Reg)
  /-- 8xy5 SUB Vx, Vy, 42_alu.md R201. -/
  | subReg (x y : Reg)
  /-- 8xy6 SHR Vx {, Vy}, 42_alu.md R202; y is decoded and ignored (R199). -/
  | shr (x y : Reg)
  /-- 8xy7 SUBN Vx, Vy, 42_alu.md R203. -/
  | subnReg (x y : Reg)
  /-- 8xyE SHL Vx {, Vy}, 42_alu.md R204; y is decoded and ignored (R199). -/
  | shl (x y : Reg)
  /-- 9xy0 SNE Vx, Vy, 41_control_flow.md R168. -/
  | sneReg (x y : Reg)
  /-- Annn LD I, nnn, 43_index_memory.md R231. -/
  | ldI (nnn : Addr)
  /-- Bnnn JP V0, nnn, 41_control_flow.md R169. -/
  | jpV0 (nnn : Addr)
  /-- Cxkk RND Vx, kk, 42_alu.md R205. -/
  | rnd (x : Reg) (kk : Byte)
  /-- Dxyn DRW Vx, Vy, n, 44_display.md R262. -/
  | drw (x y : Reg) (n : Nat)
  /-- Ex9E SKP Vx, 46_keypad.md R311. -/
  | skp (x : Reg)
  /-- ExA1 SKNP Vx, 46_keypad.md R312. -/
  | sknp (x : Reg)
  /-- Fx07 LD Vx, DT, 45_timers.md R291. -/
  | ldVxDT (x : Reg)
  /-- Fx0A LD Vx, K, 46_keypad.md R314. -/
  | ldVxK (x : Reg)
  /-- Fx15 LD DT, Vx, 45_timers.md R292. -/
  | ldDTVx (x : Reg)
  /-- Fx18 LD ST, Vx, 45_timers.md R293. -/
  | ldSTVx (x : Reg)
  /-- Fx1E ADD I, Vx, 43_index_memory.md R232. -/
  | addI (x : Reg)
  /-- Fx29 LD F, Vx, 43_index_memory.md R233. -/
  | ldF (x : Reg)
  /-- Fx33 LD B, Vx, 43_index_memory.md R234. -/
  | ldB (x : Reg)
  /-- Fx55 LD [I], Vx, 43_index_memory.md R235. -/
  | ldMemVx (x : Reg)
  /-- Fx65 LD Vx, [I], 43_index_memory.md R236. -/
  | ldVxMem (x : Reg)
  deriving DecidableEq, Repr

end Sys2Proof
end

