-- ==== Sys2Proof/WellFormed.lean ====
section
/-! DEFINITION. Which terms of `Instr` an instruction word can hold. Register indexes, `kk` and `nnn` are bounded
by their types; the row count of Dxyn is a number and is checked here. -/

namespace Sys2Proof

/-- The operand fits the field the encoding gives it: `n` is a 4-bit row count, 0 to 15 (30_encoding.md R102).
Every other operand's type is already as wide as its field. -/
def Instr.fits : Instr → Bool
  | .drw _ _ n => n < 16
  | .cls | .ret | .jp _ | .call _ | .seImm _ _ | .sneImm _ _ | .seReg _ _ | .ldImm _ _ | .addImm _ _
  | .ldReg _ _ | .orReg _ _ | .andReg _ _ | .xorReg _ _ | .addReg _ _ | .subReg _ _ | .shr _ _
  | .subnReg _ _ | .shl _ _ | .sneReg _ _ | .ldI _ | .jpV0 _ | .rnd _ _ | .skp _ | .sknp _ | .ldVxDT _
  | .ldVxK _ | .ldDTVx _ | .ldSTVx _ | .addI _ | .ldF _ | .ldB _ | .ldMemVx _ | .ldVxMem _ => true

/-- An instruction some word encodes. -/
abbrev WellFormed (i : Instr) : Prop := i.fits = true

end Sys2Proof
end

