-- ==== Sys2Proof/Decode.lean ====
section
/-! DEFINITION. The decoder, from any word or bytes to an instruction or a named rejection (30_encoding.md R100 to
R107), the encoder after it, and the opcode map of R104 as rows of mask and match. -/

namespace Sys2Proof

/-- Why a decode is rejected: the word matches no row of the opcode map (R105), or the bytes given end before the
second byte of the word (R100). -/
inductive DecodeError where
  | unknownOpcode (w : Word)
  | truncated
  deriving DecidableEq, Repr

/-! ## Fields (R101) -/

/-- op, w[15:12]. -/
def opField (w : Word) : Nibble := w.extractLsb' 12 4
/-- Bits 11:8, the x nibble. -/
def xNibble (w : Word) : Nibble := w.extractLsb' 8 4
/-- Bits 7:4, the y nibble. -/
def yNibble (w : Word) : Nibble := w.extractLsb' 4 4
/-- n, w[3:0]. -/
def nField (w : Word) : Nibble := w.extractLsb' 0 4
/-- kk, w[7:0]. -/
def kkField (w : Word) : Byte := w.extractLsb' 0 8
/-- nnn, w[11:0]. -/
def nnnField (w : Word) : Addr := w.extractLsb' 0 12
/-- x as a register index. -/
def xField (w : Word) : Reg := (xNibble w).toFin
/-- y as a register index. -/
def yField (w : Word) : Reg := (yNibble w).toFin

/-! ## The decoder (R101, R104, R105) -/

/-- op 0: only the two fixed words are legal; 0nnn is not (R106). -/
def decodeOp0 (w : Word) : Except DecodeError Instr :=
  if w = 0x00E0#16 then .ok .cls
  else if w = 0x00EE#16 then .ok .ret
  else .error (.unknownOpcode w)

/-- op 8: the minor opcode is n. -/
def decodeOp8 (w : Word) : Except DecodeError Instr :=
  match nField w with
  | 0x0#4 => .ok (.ldReg (xField w) (yField w))
  | 0x1#4 => .ok (.orReg (xField w) (yField w))
  | 0x2#4 => .ok (.andReg (xField w) (yField w))
  | 0x3#4 => .ok (.xorReg (xField w) (yField w))
  | 0x4#4 => .ok (.addReg (xField w) (yField w))
  | 0x5#4 => .ok (.subReg (xField w) (yField w))
  | 0x6#4 => .ok (.shr (xField w) (yField w))
  | 0x7#4 => .ok (.subnReg (xField w) (yField w))
  | 0xE#4 => .ok (.shl (xField w) (yField w))
  | _ => .error (.unknownOpcode w)

/-- op E: the minor opcode is kk. -/
def decodeOpE (w : Word) : Except DecodeError Instr :=
  match kkField w with
  | 0x9E#8 => .ok (.skp (xField w))
  | 0xA1#8 => .ok (.sknp (xField w))
  | _ => .error (.unknownOpcode w)

/-- op F: the minor opcode is kk. -/
def decodeOpF (w : Word) : Except DecodeError Instr :=
  match kkField w with
  | 0x07#8 => .ok (.ldVxDT (xField w))
  | 0x0A#8 => .ok (.ldVxK (xField w))
  | 0x15#8 => .ok (.ldDTVx (xField w))
  | 0x18#8 => .ok (.ldSTVx (xField w))
  | 0x1E#8 => .ok (.addI (xField w))
  | 0x29#8 => .ok (.ldF (xField w))
  | 0x33#8 => .ok (.ldB (xField w))
  | 0x55#8 => .ok (.ldMemVx (xField w))
  | 0x65#8 => .ok (.ldVxMem (xField w))
  | _ => .error (.unknownOpcode w)

/-- The instruction a word stands for. Total: a word outside the map is rejected with the word itself (R105).
The sixteen values of op are all listed; the last arm is never taken. -/
def decodeWord (w : Word) : Except DecodeError Instr :=
  match opField w with
  | 0x0#4 => decodeOp0 w
  | 0x1#4 => .ok (.jp (nnnField w))
  | 0x2#4 => .ok (.call (nnnField w))
  | 0x3#4 => .ok (.seImm (xField w) (kkField w))
  | 0x4#4 => .ok (.sneImm (xField w) (kkField w))
  | 0x5#4 => if nField w = 0#4 then .ok (.seReg (xField w) (yField w)) else .error (.unknownOpcode w)
  | 0x6#4 => .ok (.ldImm (xField w) (kkField w))
  | 0x7#4 => .ok (.addImm (xField w) (kkField w))
  | 0x8#4 => decodeOp8 w
  | 0x9#4 => if nField w = 0#4 then .ok (.sneReg (xField w) (yField w)) else .error (.unknownOpcode w)
  | 0xA#4 => .ok (.ldI (nnnField w))
  | 0xB#4 => .ok (.jpV0 (nnnField w))
  | 0xC#4 => .ok (.rnd (xField w) (kkField w))
  | 0xD#4 => .ok (.drw (xField w) (yField w) (nField w).toNat)
  | 0xE#4 => decodeOpE w
  | 0xF#4 => decodeOpF w
  | _ => .error (.unknownOpcode w)

/-- Decoding from bytes: a word is big-endian in two bytes (R100, 20_memory.md R75); the bytes after it are handed
back. -/
def decode : List Byte → Except DecodeError (Instr × List Byte)
  | hi :: lo :: rest =>
    match decodeWord (joinBytes hi lo) with
    | .ok i => .ok (i, rest)
    | .error e => .error e
  | _ => .error .truncated

/-- The instruction the decoder reads from a row of spec/opcode_table.json whose bits are `w`: the low `nbits` bits
are the word (every bit above is 0), stored big-endian, high byte first. -/
def decodeTableWord (nbits w : Nat) : Option Instr :=
  let word : Word := BitVec.ofNat 16 (w % 2 ^ nbits)
  match decode [highByte word, lowByte word] with
  | .ok (i, _) => some i
  | .error _ => none

/-! ## The encoder (R103, R104) -/

/-- op ++ nnn (format A). -/
def wordA (op : Nat) (nnn : Addr) : Word := BitVec.ofNat 16 (op * 0x1000 + nnn.toNat)
/-- op ++ x ++ kk (formats XK and X, where kk is the minor opcode). -/
def wordXK (op : Nat) (x : Reg) (kk : Byte) : Word := BitVec.ofNat 16 (op * 0x1000 + x.val * 0x100 + kk.toNat)
/-- op ++ x ++ y ++ n (formats XYN and XY, where n is the minor opcode). -/
def wordXYN (op : Nat) (x y : Reg) (n : Nat) : Word :=
  BitVec.ofNat 16 (op * 0x1000 + x.val * 0x100 + y.val * 0x10 + n % 0x10)

/-- The word of an instruction. -/
def encode : Instr → Word
  | .cls => 0x00E0#16
  | .ret => 0x00EE#16
  | .jp nnn => wordA 0x1 nnn
  | .call nnn => wordA 0x2 nnn
  | .seImm x kk => wordXK 0x3 x kk
  | .sneImm x kk => wordXK 0x4 x kk
  | .seReg x y => wordXYN 0x5 x y 0x0
  | .ldImm x kk => wordXK 0x6 x kk
  | .addImm x kk => wordXK 0x7 x kk
  | .ldReg x y => wordXYN 0x8 x y 0x0
  | .orReg x y => wordXYN 0x8 x y 0x1
  | .andReg x y => wordXYN 0x8 x y 0x2
  | .xorReg x y => wordXYN 0x8 x y 0x3
  | .addReg x y => wordXYN 0x8 x y 0x4
  | .subReg x y => wordXYN 0x8 x y 0x5
  | .shr x y => wordXYN 0x8 x y 0x6
  | .subnReg x y => wordXYN 0x8 x y 0x7
  | .shl x y => wordXYN 0x8 x y 0xE
  | .sneReg x y => wordXYN 0x9 x y 0x0
  | .ldI nnn => wordA 0xA nnn
  | .jpV0 nnn => wordA 0xB nnn
  | .rnd x kk => wordXK 0xC x kk
  | .drw x y n => wordXYN 0xD x y n
  | .skp x => wordXK 0xE x 0x9E#8
  | .sknp x => wordXK 0xE x 0xA1#8
  | .ldVxDT x => wordXK 0xF x 0x07#8
  | .ldVxK x => wordXK 0xF x 0x0A#8
  | .ldDTVx x => wordXK 0xF x 0x15#8
  | .ldSTVx x => wordXK 0xF x 0x18#8
  | .addI x => wordXK 0xF x 0x1E#8
  | .ldF x => wordXK 0xF x 0x29#8
  | .ldB x => wordXK 0xF x 0x33#8
  | .ldMemVx x => wordXK 0xF x 0x55#8
  | .ldVxMem x => wordXK 0xF x 0x65#8

/-! ## The opcode map as the manual prints it (R104) -/

/-- A row of R104's map: a word w selects it when `w & mask == match`. -/
structure OpcodeRow where
  mnemonic : String
  mask     : Word
  pattern  : Word
  deriving DecidableEq, Repr

/-- `w & mask == match`. -/
def OpcodeRow.selects (r : OpcodeRow) (w : Word) : Bool := w &&& r.mask == r.pattern

/-- R104's rows with op 0 to 7. -/
def opcodeRows0to7 : List OpcodeRow :=
  [ ⟨"CLS", 0xFFFF#16, 0x00E0#16⟩, ⟨"RET", 0xFFFF#16, 0x00EE#16⟩, ⟨"JP_nnn", 0xF000#16, 0x1000#16⟩,
    ⟨"CALL_nnn", 0xF000#16, 0x2000#16⟩, ⟨"SE_Vx__kk", 0xF000#16, 0x3000#16⟩,
    ⟨"SNE_Vx__kk", 0xF000#16, 0x4000#16⟩, ⟨"SE_Vx__Vy", 0xF00F#16, 0x5000#16⟩,
    ⟨"LD_Vx__kk", 0xF000#16, 0x6000#16⟩, ⟨"ADD_Vx__kk", 0xF000#16, 0x7000#16⟩ ]

/-- R104's rows with op 8 to D. -/
def opcodeRows8toD : List OpcodeRow :=
  [ ⟨"LD_Vx__Vy", 0xF00F#16, 0x8000#16⟩, ⟨"OR_Vx__Vy", 0xF00F#16, 0x8001#16⟩,
    ⟨"AND_Vx__Vy", 0xF00F#16, 0x8002#16⟩, ⟨"XOR_Vx__Vy", 0xF00F#16, 0x8003#16⟩,
    ⟨"ADD_Vx__Vy", 0xF00F#16, 0x8004#16⟩, ⟨"SUB_Vx__Vy", 0xF00F#16, 0x8005#16⟩,
    ⟨"SHR_Vx____Vy", 0xF00F#16, 0x8006#16⟩, ⟨"SUBN_Vx__Vy", 0xF00F#16, 0x8007#16⟩,
    ⟨"SHL_Vx____Vy", 0xF00F#16, 0x800E#16⟩, ⟨"SNE_Vx__Vy", 0xF00F#16, 0x9000#16⟩,
    ⟨"LD_I__nnn", 0xF000#16, 0xA000#16⟩, ⟨"JP_V0__nnn", 0xF000#16, 0xB000#16⟩,
    ⟨"RND_Vx__kk", 0xF000#16, 0xC000#16⟩, ⟨"DRW_Vx__Vy__n", 0xF000#16, 0xD000#16⟩ ]

/-- R104's rows with op E and F. -/
def opcodeRowsEtoF : List OpcodeRow :=
  [ ⟨"SKP_Vx", 0xF0FF#16, 0xE09E#16⟩, ⟨"SKNP_Vx", 0xF0FF#16, 0xE0A1#16⟩, ⟨"LD_Vx__DT", 0xF0FF#16, 0xF007#16⟩,
    ⟨"LD_Vx__K", 0xF0FF#16, 0xF00A#16⟩, ⟨"LD_DT__Vx", 0xF0FF#16, 0xF015#16⟩,
    ⟨"LD_ST__Vx", 0xF0FF#16, 0xF018#16⟩, ⟨"ADD_I__Vx", 0xF0FF#16, 0xF01E#16⟩,
    ⟨"LD_F__Vx", 0xF0FF#16, 0xF029#16⟩, ⟨"LD_B__Vx", 0xF0FF#16, 0xF033#16⟩,
    ⟨"LD__I___Vx", 0xF0FF#16, 0xF055#16⟩, ⟨"LD_Vx___I", 0xF0FF#16, 0xF065#16⟩ ]

/-- The 34 rows of R104, in the table's order. -/
def opcodeRows : List OpcodeRow := opcodeRows0to7 ++ opcodeRows8toD ++ opcodeRowsEtoF

/-- The mnemonic of an instruction's row in spec/opcode_table.json. -/
def Instr.mnemonic : Instr → String
  | .cls => "CLS"
  | .ret => "RET"
  | .jp _ => "JP_nnn"
  | .call _ => "CALL_nnn"
  | .seImm _ _ => "SE_Vx__kk"
  | .sneImm _ _ => "SNE_Vx__kk"
  | .seReg _ _ => "SE_Vx__Vy"
  | .ldImm _ _ => "LD_Vx__kk"
  | .addImm _ _ => "ADD_Vx__kk"
  | .ldReg _ _ => "LD_Vx__Vy"
  | .orReg _ _ => "OR_Vx__Vy"
  | .andReg _ _ => "AND_Vx__Vy"
  | .xorReg _ _ => "XOR_Vx__Vy"
  | .addReg _ _ => "ADD_Vx__Vy"
  | .subReg _ _ => "SUB_Vx__Vy"
  | .shr _ _ => "SHR_Vx____Vy"
  | .subnReg _ _ => "SUBN_Vx__Vy"
  | .shl _ _ => "SHL_Vx____Vy"
  | .sneReg _ _ => "SNE_Vx__Vy"
  | .ldI _ => "LD_I__nnn"
  | .jpV0 _ => "JP_V0__nnn"
  | .rnd _ _ => "RND_Vx__kk"
  | .drw _ _ _ => "DRW_Vx__Vy__n"
  | .skp _ => "SKP_Vx"
  | .sknp _ => "SKNP_Vx"
  | .ldVxDT _ => "LD_Vx__DT"
  | .ldVxK _ => "LD_Vx__K"
  | .ldDTVx _ => "LD_DT__Vx"
  | .ldSTVx _ => "LD_ST__Vx"
  | .addI _ => "ADD_I__Vx"
  | .ldF _ => "LD_F__Vx"
  | .ldB _ => "LD_B__Vx"
  | .ldMemVx _ => "LD__I___Vx"
  | .ldVxMem _ => "LD_Vx___I"

end Sys2Proof
end

