-- ==== Sys2Proof/Config.lean ====
section
/-! DEFINITION. What one machine fixes for its life, the parameters of 00_scope.md R8, and the one free value, the
random byte of Cxkk. The default values stand in Machine/Defaults.lean. -/

namespace Sys2Proof

/-- FONT_BASE: 0x100 (default) or 0x0FF (00_scope.md R8, 92_eei_decisions.md D1). -/
inductive FontBase where
  | at100
  | at0FF
  deriving DecidableEq, Repr

/-- FONT_WRITE_POLICY: what a write into the font region does (20_memory.md R80, D12). -/
inductive FontWritePolicy where
  | fault
  | ignore
  | writeThrough
  deriving DecidableEq, Repr

/-- FONT_DIGIT_POLICY: what Fx29 does with a digit above 0xF (43_index_memory.md R233, D10). -/
inductive FontDigitPolicy where
  | fault
  | lowNibble
  | unmasked
  deriving DecidableEq, Repr

/-- KEY_INDEX_POLICY: what Ex9E and ExA1 do with a key number above 0xF (46_keypad.md R313, D11). -/
inductive KeyIndexPolicy where
  | fault
  | lowNibble
  deriving DecidableEq, Repr

/-- The parameters of 00_scope.md R8, less RNG (`Config.draw`). FONT_DATA is 16 glyphs of 5 bytes, any bytes
(10_state.md R49). A machine keeps its parameters for life (70_reset_and_hazards.md R380). -/
structure Params where
  fontBase    : FontBase
  fontData    : Vector (Vector Byte 5) 16
  strictStack : Bool
  fontWrite   : FontWritePolicy
  fontDigit   : FontDigitPolicy
  keyIndex    : KeyIndexPolicy
  deriving DecidableEq, Repr

/-- FREE VALUE. `Draw()` of 00_scope.md R12: the random byte a Cxkk takes, under no law (42_alu.md R205, D13; log
entry 3). It has no body, so no proof can know a value of it; it is applied to the count of draws taken before. -/
opaque Config.draw : Nat → Byte

end Sys2Proof
end

