-- ==== Sys2Proof/Machine/Defaults.lean ====
section
/-! DEFINITION. The default parameters of 00_scope.md R8 and the default font table of 10_state.md R49. -/

namespace Sys2Proof.Machine

/-- The address FONT_BASE stands for (00_scope.md R8). -/
def fontBaseAddr : FontBase → Nat
  | .at100 => 0x100
  | .at0FF => 0x0FF

/-- The default FONT_DATA: glyphs 0 to F, five rows each, top row first (10_state.md R49, which marks the bytes as
general knowledge; log entry 14). -/
def defaultFontData : Vector (Vector Byte 5) 16 :=
  #v[ #v[0xF0#8, 0x90#8, 0x90#8, 0x90#8, 0xF0#8], #v[0x20#8, 0x60#8, 0x20#8, 0x20#8, 0x70#8],
      #v[0xF0#8, 0x10#8, 0xF0#8, 0x80#8, 0xF0#8], #v[0xF0#8, 0x10#8, 0xF0#8, 0x10#8, 0xF0#8],
      #v[0x90#8, 0x90#8, 0xF0#8, 0x10#8, 0x10#8], #v[0xF0#8, 0x80#8, 0xF0#8, 0x10#8, 0xF0#8],
      #v[0xF0#8, 0x80#8, 0xF0#8, 0x90#8, 0xF0#8], #v[0xF0#8, 0x10#8, 0x20#8, 0x40#8, 0x40#8],
      #v[0xF0#8, 0x90#8, 0xF0#8, 0x90#8, 0xF0#8], #v[0xF0#8, 0x90#8, 0xF0#8, 0x10#8, 0xF0#8],
      #v[0xF0#8, 0x90#8, 0xF0#8, 0x90#8, 0x90#8], #v[0xE0#8, 0x90#8, 0xE0#8, 0x90#8, 0xE0#8],
      #v[0xF0#8, 0x80#8, 0x80#8, 0x80#8, 0xF0#8], #v[0xE0#8, 0x90#8, 0x90#8, 0x90#8, 0xE0#8],
      #v[0xF0#8, 0x80#8, 0xF0#8, 0x80#8, 0xF0#8], #v[0xF0#8, 0x80#8, 0xF0#8, 0x80#8, 0x80#8] ]

/-- The default column of 00_scope.md R8. -/
def defaultParams : Params where
  fontBase := .at100
  fontData := defaultFontData
  strictStack := false
  fontWrite := .fault
  fontDigit := .fault
  keyIndex := .fault

end Sys2Proof.Machine
end

