-- ==== Sys2Proof/Machine/State.lean ====
section
/-! DEFINITION. The machine's state as plain data (10_state.md R30), the faults it records (60_exceptions.md
R340), and the state after construction (10_state.md R52). -/

namespace Sys2Proof.Machine

/-- The fault kinds of 60_exceptions.md R340 with the information each records. They are the contents of the state's
FAULT element: a raised fault is a NEXT state with FAULT set (R344), never the outcome `fault`, so no run is cut short
(log entry 4, safe). In every constructor `pc` is the address of the instruction concerned. -/
inductive Fault where
  /-- Code 1. Raised by every step at fetch when PC < 0x200 or PC ≥ MEND (20_memory.md R78). Safe: the spec's. -/
  | fetchOutOfRange (pc : Word)
  /-- Code 2. Raised by every step at fetch when PC is in range and odd (20_memory.md R78). Safe: the spec's. -/
  | fetchMisaligned (pc : Word)
  /-- Code 3. Raised by every step at decode when the word matches no row (30_encoding.md R105). The four nibbles are
  w[15:12], w[11:8], w[7:4], w[3:0]. Safe: the spec's. -/
  | unknownOpcode (word : Word) (n3 n2 n1 n0 : Nibble) (pc : Word)
  /-- Code 4. Raised by 2nnn in strict mode when SP ≥ 0xFE (41_control_flow.md R162). Safe: the spec's. -/
  | stackOverflow (pc : Word) (sp : Byte)
  /-- Code 5. Raised by 00EE in strict mode when SP < 2 (41_control_flow.md R164). Safe: the spec's. -/
  | stackUnderflow (pc : Word) (sp : Byte)
  /-- Code 6. Raised by 2nnn, Fx33 and Fx55 under FONT_WRITE_POLICY = fault when an address to write is in the font
  region; `addr` is that of the lowest offset (20_memory.md R80, 60_exceptions.md R343). Safe: the spec's. -/
  | fontWrite (pc : Word) (addr : Addr)
  /-- Code 7. Raised by Fx29 under FONT_DIGIT_POLICY = fault when V[x] > 0xF (43_index_memory.md R233). Safe: the
  spec's. -/
  | fontDigitOutOfRange (pc : Word) (value : Byte)
  /-- Code 8. Raised by Ex9E and ExA1 under KEY_INDEX_POLICY = fault when V[x] > 0xF (46_keypad.md R313). Safe: the
  spec's. -/
  | keyIndexOutOfRange (pc : Word) (value : Byte)
  deriving DecidableEq, Repr

/-- Why an instruction has no meaning. -/
inductive Refusal where
  /-- Raised by exec's arm of an instruction that has no meaning yet, named by its mnemonic. Safe: nothing is claimed
  of it. Every instruction of this hardware has its meaning, so nothing raises it. -/
  | notModelled (mnemonic : String)
  deriving DecidableEq, Repr

/-- The state of 10_state.md R30, and two fields of the model's own, `params` and `draws` (10_state.md R51 calls
them arguments of a model; log entries 1 and 3). -/
structure State where
  /-- The parameters of 00_scope.md R8, fixed for the machine's life. -/
  params : Params
  /-- MEM, as the bytes that differ from what construction left there: addresses strictly rising
  (Machine/Memory.lean; 20_memory.md R70). -/
  mem    : List Host.Cell
  /-- V0 to VF (R31). -/
  v      : Vector Byte 16
  /-- I (R37). -/
  i      : Word
  /-- PC (R34). -/
  pc     : Word
  /-- SP (R39). -/
  sp     : Byte
  /-- DT (R41). -/
  dt     : Byte
  /-- ST (R42). -/
  st     : Byte
  /-- KEY, true = down (R44). -/
  key    : Vector Bool 16
  /-- WAIT: the register a key press is awaited for (R45). -/
  wait   : Option Reg
  /-- FB, as the bytes that are not 0: FB[y][x] at index y*64 + x, strictly rising (R46). -/
  fb     : List Host.Cell
  /-- UPD (R47). -/
  upd    : Bool
  /-- MEND, memory_end (R48). -/
  mend   : Nat
  /-- FAULT (R50). -/
  fault  : Option Fault
  /-- How many random bytes Cxkk has taken (the model's own; R51, log entry 3). -/
  draws  : Nat
  deriving DecidableEq, Repr

/-- `construct()` with the parameters `p`: every element at its value of 10_state.md R52, column "after
construction" (70_reset_and_hazards.md R380). -/
def State.construct (p : Params) : State where
  params := p
  mem := []
  v := Vector.replicate 16 0#8
  i := 0#16
  pc := 0x200#16
  sp := 0#8
  dt := 0#8
  st := 0#8
  key := Vector.replicate 16 false
  wait := none
  fb := []
  upd := false
  mend := 0x200
  fault := none
  draws := 0

/-- The machine right after construction with R8's default parameters (log entry 2). -/
def State.reset : State := State.construct defaultParams

end Sys2Proof.Machine
end

