-- ==== Sys2Proof/Machine/Memory.lean ====
section
/-! DEFINITION. Sparse byte arrays in one canonical form, used for MEM and for FB, and what a byte that is not listed
reads as. `dflt` is the array's contents where nothing is listed. -/

namespace Sys2Proof.Machine

/-! ## Sparse byte arrays -/

/-- The byte at index `a`. -/
def cellsRead (dflt : Nat → Byte) : List Host.Cell → Nat → Byte
  | [], a => dflt a
  | c :: m, a => if c.1 = a then c.2 else cellsRead dflt m a

/-- The array with no entry for index `a`. -/
def cellsErase (m : List Host.Cell) (a : Nat) : List Host.Cell := m.filter fun c => c.1 != a

/-- The array with the entry (a, v) put before the first larger index. -/
def cellsInsert : List Host.Cell → Nat → Byte → List Host.Cell
  | [], a, v => [(a, v)]
  | c :: m, a, v => if a < c.1 then (a, v) :: c :: m else c :: cellsInsert m a v

/-- Writing `v` at index `a`: what an unlisted index reads as is not listed. -/
def cellsWrite (dflt : Nat → Byte) (m : List Host.Cell) (a : Nat) (v : Byte) : List Host.Cell :=
  if v = dflt a then cellsErase m a else cellsInsert (cellsErase m a) a v

/-- The canonical form: indexes strictly rising and below `size`, and no entry equal to what its index reads as
unlisted. -/
abbrev cellsWf (dflt : Nat → Byte) (size : Nat) (m : List Host.Cell) : Prop :=
  m.Pairwise (fun c d => c.1 < d.1) ∧ ∀ c ∈ m, c.1 < size ∧ c.2 ≠ dflt c.1

/-! ## MEM (20_memory.md R70, R71) -/

/-- Whether address `a` lies in the font region [FONT_BASE, FONT_BASE + 80) (20_memory.md R71). -/
def inFont (p : Params) (a : Nat) : Bool := fontBaseAddr p.fontBase ≤ a && a < fontBaseAddr p.fontBase + 80

/-- Byte `k` of FONT_DATA: row k mod 5 of glyph k / 5 (10_state.md R49). -/
def fontByte (p : Params) (k : Nat) : Byte := (p.fontData.get (Fin.ofNat 16 (k / 5))).get (Fin.ofNat 5 k)

/-- What an address of MEM with nothing listed reads as: the contents construction gives it, FONT_DATA in the font
region and 0 elsewhere (10_state.md R52, R53). -/
def unlisted (p : Params) (a : Nat) : Byte :=
  if inFont p a then fontByte p (a - fontBaseAddr p.fontBase) else 0#8

/-- The canonical form of MEM under the parameters `p`. -/
abbrev Memory.wf (p : Params) (m : List Host.Cell) : Prop := cellsWf (unlisted p) 4096 m

/-- `MEM[a]` (00_scope.md R10, R11). -/
def State.readByte (s : State) (a : Addr) : Byte := cellsRead (unlisted s.params) s.mem a.toNat

/-- `MEM[a] <- v`, whatever region `a` is in. -/
def State.writeRaw (s : State) (a : Addr) (v : Byte) : State :=
  { s with mem := cellsWrite (unlisted s.params) s.mem a.toNat v }

/-! ## FB (10_state.md R46) -/

/-- The row-major index of row y, column x. -/
def pixelIndex (y x : Nat) : Nat := y * 64 + x

/-- An FB byte with nothing listed is 0, off. -/
def pixelOff (_ : Nat) : Byte := 0#8

/-- `FB[y][x]` of a framebuffer. -/
def fbRead (fb : List Host.Cell) (y x : Nat) : Byte := cellsRead pixelOff fb (pixelIndex y x)

/-- `FB[y][x] <- v`. -/
def fbWrite (fb : List Host.Cell) (y x : Nat) (v : Byte) : List Host.Cell := cellsWrite pixelOff fb (pixelIndex y x) v

/-- The canonical form of FB: 32 rows of 64 pixels. -/
abbrev Frame.wf (fb : List Host.Cell) : Prop := cellsWf pixelOff 2048 fb

/-- `FB[y][x]`. -/
def State.pixel (s : State) (y x : Nat) : Byte := fbRead s.fb y x

end Sys2Proof.Machine
end

