-- ==== Sys2Proof/Machine/Ops.lean ====
section
/-! DEFINITION. The shared operations of the instruction rules: registers, memory under the font-write policy, the
stack, skips, and raising a fault. -/

namespace Sys2Proof.Machine

/-- What an instruction or a step answers. -/
abbrev Result := Host.Outcome State Fault Refusal

/-! ## Registers (10_state.md R31, 00_scope.md R10) -/

/-- `V[r]`. No register is hardwired (R31). -/
def State.reg (s : State) (r : Reg) : Byte := s.v.get r

/-- `V[r] <- b`. -/
def State.setReg (s : State) (r : Reg) (b : Byte) : State := { s with v := s.v.set r b }

/-- `V[x] <- result`, then `V[15] <- flag` (42_alu.md R191). -/
def State.setRegThenFlag (s : State) (x : Reg) (result flag : Byte) : State := (s.setReg x result).setReg vF flag

/-- `KEY[k]` (10_state.md R44). -/
def State.keyDown (s : State) (k : Key) : Bool := s.key.get k

/-! ## Faults (60_exceptions.md R340, R344) -/

/-- `p` inside an instruction rule: the instruction's address, PC having been advanced by 2 (40_execution_cycle.md
R133, R134). -/
def State.instrAddr (s : State) : Word := s.pc - 2#16

/-- `raise f`: FAULT is set and the operation ends; nothing else is written, saved or redirected (00_scope.md R12,
60_exceptions.md R344). There is no return from a fault (R347). -/
def raise (f : Fault) (s : State) : Result := .next { s with fault := some f }

/-- The code of a fault (60_exceptions.md R340, D24). -/
def faultCode : Fault → Nat
  | .fetchOutOfRange _ => 1
  | .fetchMisaligned _ => 2
  | .unknownOpcode _ _ _ _ _ _ => 3
  | .stackOverflow _ _ => 4
  | .stackUnderflow _ _ => 5
  | .fontWrite _ _ => 6
  | .fontDigitOutOfRange _ _ => 7
  | .keyIndexOutOfRange _ _ => 8

/-- What a step that answers `s` returns to the host: none for `ok`, or the fault. It is FAULT itself: set by the
step that raises (60_exceptions.md R344) and by every step after it (40_execution_cycle.md R131). Log entry 4. -/
def State.returned (s : State) : Option Fault := s.fault

/-! ## Control (00_scope.md R12) -/

/-- `if c: PC <- PC + 2`. -/
def State.skipIf (s : State) (c : Bool) : State := if c then { s with pc := s.pc + 2#16 } else s

/-! ## Memory (00_scope.md R11, 20_memory.md R80) -/

/-- `MemRead(a, 2)`: big-endian, each byte at its low 12 address bits. -/
def State.readWord (s : State) (a : Word) : Word := joinBytes (s.readByte (low12 a)) (s.readByte (low12 (a + 1#16)))

/-- Whether `MemWrite` changes the byte: outside the font region always, inside it only under write_through (R80). -/
def State.writable (s : State) (a : Addr) : Bool :=
  !inFont s.params a.toNat || s.params.fontWrite == .writeThrough

/-- `MemWrite(a, 1, v)` once the policy's fault has been checked for: a write into the font region is dropped unless
the policy is write_through (R80). -/
def State.writeByte (s : State) (a : Addr) (v : Byte) : State := if s.writable a then s.writeRaw a v else s

/-- The writes of an instruction, in order. -/
def State.storeAll (s : State) (ws : List (Addr × Byte)) : State := ws.foldl (fun t w => t.writeByte w.1 w.2) s

/-- The address FontWrite names: under the policy `fault`, the first of the addresses that lies in the font region
(R80, 60_exceptions.md R343). -/
def State.fontHit (s : State) (as : List Addr) : Option Addr :=
  if s.params.fontWrite = .fault then as.find? (fun a => inFont s.params a.toNat) else none

/-- The storing instructions' common form: every address is checked before the first write (R80, 60_exceptions.md
R345); then the writes, then the rest of the effect. -/
def State.checkedStore (s : State) (ws : List (Addr × Byte)) (rest : State → State) : Result :=
  match s.fontHit (ws.map Prod.fst) with
  | some a => raise (.fontWrite s.instrAddr a) s
  | none => .next (rest (s.storeAll ws))

/-! ## Stack (10_state.md R40, 41_control_flow.md R162, R164) -/

/-- zext_16(SP), where a push writes the high byte (D4). An odd SP, which no run reaches, is taken as it is: the low
byte then goes to the next address, not back into the stack region (log entry 7). -/
def State.pushHigh (s : State) : Addr := low12 (zext16 s.sp)

/-- zext_16(SP) + 1, where a push writes the low byte (D4). -/
def State.pushLow (s : State) : Addr := low12 (zext16 s.sp + 1#16)

/-- The two writes of a push of `ret`, big-endian. -/
def State.pushWrites (s : State) (ret : Word) : List (Addr × Byte) :=
  [(s.pushHigh, highByte ret), (s.pushLow, lowByte ret)]

/-- SP after a push: trunc_8(SP + 2). -/
def State.spAfterPush (s : State) : Byte := s.sp + 2#8

/-- SP after a pop: trunc_8(SP + 254), which is SP - 2 mod 256. -/
def State.spAfterPop (s : State) : Byte := s.sp + 254#8

/-- The strict-mode check of a push (R162, D6). -/
def State.pushOverflows (s : State) : Bool := s.params.strictStack && 0xFE ≤ s.sp.toNat

/-- The strict-mode check of a pop (R164, D6). -/
def State.popUnderflows (s : State) : Bool := s.params.strictStack && s.sp.toNat < 2

end Sys2Proof.Machine
end

