-- ==== Sys2Proof/Machine/Cycle.lean ====
section
/-! DEFINITION. The parts of the step cycle that stand before an instruction's effect: the two markers, the clear of
UPD, the fetch check, the fetch, the PC advance and the record of an unknown word (40_execution_cycle.md R131 to
R134). -/

namespace Sys2Proof.Machine

/-- The step does nothing: FAULT is set, or WAIT is (40_execution_cycle.md R131). -/
def State.suspended (s : State) : Bool := s.fault.isSome || s.wait.isSome

/-- `UPD <- false` (R132). -/
def State.beginStep (s : State) : State := { s with upd := false }

/-- The fetch check at PC: range first, then evenness (20_memory.md R78). -/
def State.fetchCheck (s : State) : Option Fault :=
  if s.pc.toNat < 0x200 ∨ s.mend ≤ s.pc.toNat then some (.fetchOutOfRange s.pc)
  else if s.pc.toNat % 2 = 1 then some (.fetchMisaligned s.pc)
  else none

/-- `w = MemRead(PC, 2)`, big-endian (20_memory.md R75, R78). -/
def State.fetchWord (s : State) : Word := s.readWord s.pc

/-- `PC <- p + 2`, before the instruction's effect (R133). -/
def State.advance (s : State) : State := { s with pc := s.pc + 2#16 }

/-- The record of an illegal word fetched at `p` (30_encoding.md R105). -/
def unknownOpcodeAt (w p : Word) : Fault :=
  .unknownOpcode w (opField w) (xNibble w) (yNibble w) (nField w) p

/-- `finished()`: PC == MEND (40_execution_cycle.md R140). -/
def State.finished (s : State) : Bool := s.pc.toNat == s.mend

/-- An address a step can fetch from: even and in [0x200, 0x1000). -/
def fetchable (pc : Word) : Bool := 0x200 ≤ pc.toNat && pc.toNat < 0x1000 && pc.toNat % 2 == 0

/-- `s` made ready to fetch the word `w` as its next instruction, as a load of it would: no fault, no wait, PC where
it is if a fetch can start there and at the entry point if not, the word stored big-endian at PC, and MEND past it
(log entry 9). -/
def State.withProgramWord (s : State) (w : Word) : State :=
  let pc := if fetchable s.pc then s.pc else 0x200#16
  let mend := if pc.toNat < s.mend then s.mend else pc.toNat + 2
  let t := { s with fault := none, wait := none, pc := pc, mend := mend }
  (t.writeRaw (low12 pc) (highByte w)).writeRaw (low12 (pc + 1#16)) (lowByte w)

end Sys2Proof.Machine
end

