-- ==== Sys2Proof/Machine/Operands.lean ====
section
/-! DEFINITION. The operand forms: effective addresses, the register range of Fx55 and Fx65, the key number of Ex9E
and ExA1, the font digit of Fx29, and the zero extension of nnn. -/

namespace Sys2Proof.Machine

/-- `zext_16(nnn)` (30_encoding.md R102). -/
def absolute (nnn : Addr) : Word := nnn.setWidth 16

/-- `EA(k) = trunc_16(I + k)[11:0]` (20_memory.md R81). -/
def State.ea (s : State) (k : Nat) : Addr := low12 (s.i + BitVec.ofNat 16 k)

/-- The offsets 0 to x of Fx55 and Fx65 (43_index_memory.md R235, R236). -/
def offsetsUpTo (x : Reg) : List Nat := List.range (x.val + 1)

/-- V[k] for an offset k of a register range. -/
def rangeReg (k : Nat) : Reg := Fin.ofNat 16 k

/-- `I <- trunc_16(I + x + 1)`, the end of Fx55 and Fx65. -/
def State.advanceI (s : State) (x : Reg) : State := { s with i := s.i + BitVec.ofNat 16 (x.val + 1) }

/-- The key number of a value: none where the policy is `fault` and the value is above 0xF (46_keypad.md R313). -/
def State.keyNumber (s : State) (value : Byte) : Option Key :=
  if value.toNat ≤ 0xF ∨ s.params.keyIndex = .lowNibble then some (Fin.ofNat 16 value.toNat) else none

/-- The digit Fx29 uses: none where the policy is `fault` and the value is above 0xF (43_index_memory.md R233). -/
def State.fontDigitOf (s : State) (value : Byte) : Option Nat :=
  if value.toNat ≤ 0xF then some value.toNat
  else match s.params.fontDigit with
    | .fault => none
    | .lowNibble => some (value.toNat % 16)
    | .unmasked => some value.toNat

/-- `zext_16(FONT_BASE + 5 * d)`, the address of glyph d (R233). -/
def glyphAddr (p : Params) (d : Nat) : Word := BitVec.ofNat 16 (fontBaseAddr p.fontBase + 5 * d)

end Sys2Proof.Machine
end

