-- ==== Sys2Proof/Machine/Flags.lean ====
section
/-! DEFINITION. Every flag the block computes, each from the operands as they were before the instruction
(10_state.md R43, 42_alu.md R190). The collision flag of Dxyn comes out of the draw (Display.lean). -/

namespace Sys2Proof.Machine

/-- A flag as the byte VF gets: 1 or 0 (10_state.md R43). -/
def flagByte (c : Bool) : Byte := if c then 1#8 else 0#8

/-- 8xy4: 1 iff a + b > 0xFF (42_alu.md R200). -/
def carryFlag (a b : Byte) : Byte := flagByte (0xFF < a.toNat + b.toNat)

/-- 8xy5 with (a, b), 8xy7 with (b, a): 1 iff a ≥ b, no borrow in a - b (42_alu.md R201, R203). -/
def noBorrowFlag (a b : Byte) : Byte := flagByte (b.toNat ≤ a.toNat)

/-- 8xy6: a[0], the bit shifted out (42_alu.md R202). -/
def shrFlag (a : Byte) : Byte := flagByte (a.getLsbD 0)

/-- 8xyE: a[7] (42_alu.md R204). -/
def shlFlag (a : Byte) : Byte := flagByte (a.getLsbD 7)

end Sys2Proof.Machine
end

