-- ==== Sys2Proof/Machine/Alu.lean ====
section
/-! DEFINITION. The meanings of the ALU instructions (42_alu.md). Each reads its operands before any write (R190);
a flag is written after the result (R191). -/

namespace Sys2Proof.Machine

/-- 6xkk (R192). -/
def execLdImm (x : Reg) (kk : Byte) (s : State) : Result := .next (s.setReg x kk)

/-- 7xkk, no flag change (R193). -/
def execAddImm (x : Reg) (kk : Byte) (s : State) : Result := .next (s.setReg x (s.reg x + kk))

/-- 8xy0 (R194). -/
def execLdReg (x y : Reg) (s : State) : Result := .next (s.setReg x (s.reg y))

/-- 8xy1 (R195). -/
def execOrReg (x y : Reg) (s : State) : Result := .next (s.setReg x (s.reg x ||| s.reg y))

/-- 8xy2 (R196). -/
def execAndReg (x y : Reg) (s : State) : Result := .next (s.setReg x (s.reg x &&& s.reg y))

/-- 8xy3 (R197). -/
def execXorReg (x y : Reg) (s : State) : Result := .next (s.setReg x (s.reg x ^^^ s.reg y))

/-- 8xy4 (R200). -/
def execAddReg (x y : Reg) (s : State) : Result :=
  .next (s.setRegThenFlag x (s.reg x + s.reg y) (carryFlag (s.reg x) (s.reg y)))

/-- 8xy5 (R201). -/
def execSubReg (x y : Reg) (s : State) : Result :=
  .next (s.setRegThenFlag x (s.reg x - s.reg y) (noBorrowFlag (s.reg x) (s.reg y)))

/-- 8xy6; y is ignored (R199, R202). -/
def execShr (x _y : Reg) (s : State) : Result := .next (s.setRegThenFlag x (s.reg x >>> 1) (shrFlag (s.reg x)))

/-- 8xy7 (R203). -/
def execSubnReg (x y : Reg) (s : State) : Result :=
  .next (s.setRegThenFlag x (s.reg y - s.reg x) (noBorrowFlag (s.reg y) (s.reg x)))

/-- 8xyE; y is ignored (R199, R204). -/
def execShl (x _y : Reg) (s : State) : Result := .next (s.setRegThenFlag x (s.reg x <<< 1) (shlFlag (s.reg x)))

/-- Cxkk with the draw `r`: `V[x] <- r & kk` (R205). -/
def State.randomInto (s : State) (x : Reg) (kk r : Byte) : State := s.setReg x (r &&& kk)

/-- Cxkk: the draw is free, and the next one is another (R205, log entry 3). -/
def execRnd (x : Reg) (kk : Byte) (s : State) : Result :=
  .next { s.randomInto x kk (Config.draw s.draws) with draws := s.draws + 1 }

end Sys2Proof.Machine
end

