-- ==== Sys2Proof/Machine/ControlFlow.lean ====
section
/-! DEFINITION. The meanings of the control-flow instructions (41_control_flow.md). They run after the PC advance, so
PC is the address after the instruction (R160). Targets are absolute and unchecked. -/

namespace Sys2Proof.Machine

/-- 1nnn (R161). -/
def execJp (nnn : Addr) (s : State) : Result := .next { s with pc := absolute nnn }

/-- Bnnn: a 16-bit sum, not reduced to 12 bits (R169). -/
def execJpV0 (nnn : Addr) (s : State) : Result := .next { s with pc := absolute nnn + zext16 (s.reg 0) }

/-- 2nnn: the strict check, the font-write check, the push, SP, PC (R162). -/
def execCall (nnn : Addr) (s : State) : Result :=
  if s.pushOverflows then raise (.stackOverflow s.instrAddr s.sp) s
  else s.checkedStore (s.pushWrites s.pc) fun t => { t with sp := t.spAfterPush, pc := absolute nnn }

/-- 00EE: the strict check, SP, then PC from the popped word (R164). -/
def execRet (s : State) : Result :=
  if s.popUnderflows then raise (.stackUnderflow s.instrAddr s.sp) s
  else .next { s with sp := s.spAfterPop, pc := s.readWord (zext16 s.spAfterPop) }

/-- 3xkk (R165). -/
def execSeImm (x : Reg) (kk : Byte) (s : State) : Result := .next (s.skipIf (s.reg x == kk))

/-- 4xkk (R166). -/
def execSneImm (x : Reg) (kk : Byte) (s : State) : Result := .next (s.skipIf (s.reg x != kk))

/-- 5xy0 (R167). -/
def execSeReg (x y : Reg) (s : State) : Result := .next (s.skipIf (s.reg x == s.reg y))

/-- 9xy0 (R168). -/
def execSneReg (x y : Reg) (s : State) : Result := .next (s.skipIf (s.reg x != s.reg y))

end Sys2Proof.Machine
end

