-- ==== Sys2Proof/Machine/Display.lean ====
section
/-! DEFINITION. The display engine: clear and sprite draw (44_display.md). -/

namespace Sys2Proof.Machine

/-- 00E0: every FB byte is 0, and UPD is set (R260). -/
def execCls (s : State) : Result := .next { s with fb := [], upd := true }

/-- A framebuffer under a draw, and whether a pixel has gone from on to off so far. -/
structure DrawState where
  fb  : List Host.Cell
  hit : Bool
  deriving DecidableEq, Repr

/-- One set sprite bit on the pixel at row y, column x: on goes off and is a hit, off goes on (R262). -/
def xorPixel (y x : Nat) (d : DrawState) : DrawState :=
  if fbRead d.fb y x ≠ 0#8 then { fb := fbWrite d.fb y x 0#8, hit := true }
  else { fb := fbWrite d.fb y x 255#8, hit := d.hit }

/-- Offset b of a sprite byte in row y: bit 7 - b at column x0 + b, clipped past column 63 (R261, R262). -/
def drawBit (x0 y : Nat) (sprite : Byte) (d : DrawState) (b : Nat) : DrawState :=
  if x0 + b < 64 && sprite.getLsbD (7 - b) then xorPixel y (x0 + b) d else d

/-- One row of a sprite, offsets 0 to 7. -/
def drawRow (x0 y : Nat) (sprite : Byte) (d : DrawState) : DrawState :=
  (List.range 8).foldl (drawBit x0 y sprite) d

/-- The rows 0 to n - 1: row r of the sprite is the byte at EA(r), and goes to screen row (y0 + r) mod 32. -/
def State.drawSprite (s : State) (x0 y0 n : Nat) : DrawState :=
  (List.range n).foldl (fun d r => drawRow x0 ((y0 + r) % 32) (s.readByte (s.ea r)) d) { fb := s.fb, hit := false }

/-- Dxyn: the origin is bound before VF is written; VF is the collision flag; UPD is set always (R262 to R264). -/
def execDrw (x y : Reg) (n : Nat) (s : State) : Result :=
  let d := s.drawSprite ((s.reg x).toNat % 64) ((s.reg y).toNat % 32) n
  .next { s.setReg vF (flagByte d.hit) with fb := d.fb, upd := true }

end Sys2Proof.Machine
end

