-- ==== Sys2Proof/Machine/IndexMemory.lean ====
section
/-! DEFINITION. The meanings of the index-register and memory instructions (43_index_memory.md). -/

namespace Sys2Proof.Machine

/-- Annn (R231). -/
def execLdI (nnn : Addr) (s : State) : Result := .next { s with i := absolute nnn }

/-- Fx1E: mod 2^16, no flag (R232). -/
def execAddI (x : Reg) (s : State) : Result := .next { s with i := s.i + zext16 (s.reg x) }

/-- Fx29 (R233). -/
def execLdF (x : Reg) (s : State) : Result :=
  match s.fontDigitOf (s.reg x) with
  | some d => .next { s with i := glyphAddr s.params d }
  | none => raise (.fontDigitOutOfRange s.instrAddr (s.reg x)) s

/-- The three writes of Fx33: hundreds, tens, ones (R234). -/
def State.bcdWrites (s : State) (a : Byte) : List (Addr × Byte) :=
  [ (s.ea 0, BitVec.ofNat 8 (a.toNat / 100)), (s.ea 1, BitVec.ofNat 8 (a.toNat / 10 % 10)),
    (s.ea 2, BitVec.ofNat 8 (a.toNat % 10)) ]

/-- Fx33; I is unchanged (R234). -/
def execLdB (x : Reg) (s : State) : Result := s.checkedStore (s.bcdWrites (s.reg x)) id

/-- The writes of Fx55: V[k] at EA(k), k = 0 to x (R235). -/
def State.regWrites (s : State) (x : Reg) : List (Addr × Byte) :=
  (offsetsUpTo x).map fun k => (s.ea k, s.reg (rangeReg k))

/-- Fx55 (R235). -/
def execLdMemVx (x : Reg) (s : State) : Result := s.checkedStore (s.regWrites x) fun t => t.advanceI x

/-- The loads of Fx65: V[k] <- MEM[EA(k)], k = 0 to x in order (R236). -/
def State.loadRegs (s : State) (x : Reg) : State :=
  (offsetsUpTo x).foldl (fun t k => t.setReg (rangeReg k) (s.readByte (s.ea k))) s

/-- Fx65 (R236). -/
def execLdVxMem (x : Reg) (s : State) : Result := .next ((s.loadRegs x).advanceI x)

end Sys2Proof.Machine
end

