-- ==== Sys2Proof/Machine/Keypad.lean ====
section
/-! DEFINITION. The keypad instructions and the delivery of a key (46_keypad.md). -/

namespace Sys2Proof.Machine

/-- Ex9E: skip if the key is down (R311, R313). -/
def execSkp (x : Reg) (s : State) : Result :=
  match s.keyNumber (s.reg x) with
  | some k => .next (s.skipIf (s.keyDown k))
  | none => raise (.keyIndexOutOfRange s.instrAddr (s.reg x)) s

/-- ExA1: skip if the key is up (R312, R313). -/
def execSknp (x : Reg) (s : State) : Result :=
  match s.keyNumber (s.reg x) with
  | some k => .next (s.skipIf (!s.keyDown k))
  | none => raise (.keyIndexOutOfRange s.instrAddr (s.reg x)) s

/-- Fx0A: every key is cleared and the wait for register x begins; V[x] is not written yet (R314). -/
def execLdVxK (x : Reg) (s : State) : Result := .next { s with key := Vector.replicate 16 false, wait := some x }

/-- `deliver_key(k)` for a key k: ends a wait, and does nothing outside one or on a halted machine (R316). -/
def State.deliverKey (s : State) (k : Key) : State :=
  if s.fault.isSome then s
  else match s.wait with
    | some r => { s.setReg r (BitVec.ofNat 8 k.val) with wait := none }
    | none => s

end Sys2Proof.Machine
end

