-- ==== Sys2Proof/Machine/Timers.lean ====
section
/-! DEFINITION. The timer instructions and the timer tick (45_timers.md). -/

namespace Sys2Proof.Machine

/-- Fx07 (R291). -/
def execLdVxDT (x : Reg) (s : State) : Result := .next (s.setReg x s.dt)

/-- Fx15 (R292). -/
def execLdDTVx (x : Reg) (s : State) : Result := .next { s with dt := s.reg x }

/-- Fx18 (R293). -/
def execLdSTVx (x : Reg) (s : State) : Result := .next { s with st := s.reg x }

/-- One count down that stops at 0 (R294, R295). -/
def countDown (t : Byte) : Byte := if t = 0#8 then 0#8 else t - 1#8

/-- `tick_timers()`: the state after it and the tone it returns (R294 to R298). -/
def State.tickTimers (s : State) : State × Bool :=
  if s.fault.isSome then (s, false)
  else ({ s with dt := countDown s.dt, st := countDown s.st }, s.st != 0#8)

end Sys2Proof.Machine
end

