-- ==== Sys2Proof/Machine/Step.lean ====
section
/-! DEFINITION. `step()` (40_execution_cycle.md R136). -/

namespace Sys2Proof.Machine

/-- One step: nothing on a halted or waiting machine (R131); else the clear of UPD (R132), the fetch check and the
fetch (R133, 20_memory.md R78), the PC advance, and the decoded instruction (R134). A fault is a next state with FAULT
set (60_exceptions.md R344, R345). What the host is returned is `State.returned` of the state answered. -/
def step (s : State) : Host.Outcome State Fault Refusal :=
  if s.suspended then .next s
  else
    let t := s.beginStep
    match t.fetchCheck with
    | some f => raise f t
    | none =>
      match decodeWord t.fetchWord with
      | .ok i => exec i t.advance
      | .error _ => raise (unknownOpcodeAt t.fetchWord t.pc) t.advance

/-- `s` with an instruction whose bits are `w` stored where step fetches next. Its low `nbits` bits are the word,
every bit above is 0 (log entry 9). -/
def State.withFetchWord (s : State) (nbits w : Nat) : State := s.withProgramWord (BitVec.ofNat 16 (w % 2 ^ nbits))

end Sys2Proof.Machine
end

