-- ==== Sys2Proof/Machine/HostCalls.lean ====
section
/-! DEFINITION. Every operation of the host but construct (which is `State.construct`), each atomic, with what it
returns (40_execution_cycle.md R150). A run of the machine is a list of calls in any order (R151). -/

namespace Sys2Proof.Machine

/-- `load`'s copy: the bytes to the addresses from `base` on, past any font-write policy (70_reset_and_hazards.md
R382). -/
def State.copyIn (s : State) (base : Nat) : List Byte → State
  | [] => s
  | b :: bs => (s.writeRaw (BitVec.ofNat 12 base) b).copyIn (base + 1) bs

/-- The longest ROM, 0xE00 bytes (00_scope.md R7). -/
def maxRomLen : Nat := 0xE00

/-- `load(bytes)`: none where it is refused (70_reset_and_hazards.md R382, R383). -/
def State.load (s : State) (bytes : List Byte) : Option State :=
  if maxRomLen < bytes.length then none
  else some { s.copyIn 0x200 bytes with mend := 0x200 + bytes.length }

/-- Whether reboot keeps the byte at `a`: in the font region or in [0x200, MEND) (70_reset_and_hazards.md R384). -/
def State.rebootKeeps (s : State) (a : Nat) : Bool := inFont s.params a || (0x200 ≤ a && a < s.mend)

/-- `reboot()` (R384). Dropping an entry sets its byte to what construction left there, which is 0 outside the font
region. -/
def State.reboot (s : State) : State :=
  { State.construct s.params with
    mem := s.mem.filter fun c => s.rebootKeeps c.1
    mend := s.mend
    draws := s.draws }

/-- The host's write of KEY[k] (40_execution_cycle.md R152). -/
def State.writeKey (s : State) (k : Key) (down : Bool) : State := { s with key := s.key.set k down }

/-- The framebuffer as the host reads it: 2048 bytes, row-major (10_state.md R46, R54). -/
def State.frame (s : State) : List Byte := (List.range 2048).map fun k => cellsRead pixelOff s.fb k

/-- The host's calls on a machine (40_execution_cycle.md R150), and its direct reads and writes of the elements it
may see (10_state.md R54). -/
inductive HostCall where
  | load (bytes : List Byte)
  | step
  | tickTimers
  | deliverKey (k : Nat)
  | reboot
  | finished
  | readFB
  | readUPD
  | readKEY
  | readWAIT
  | readFAULT
  | writeKEY (k : Key) (down : Bool)
  deriving DecidableEq, Repr

/-- What a call returns. -/
inductive Reply where
  /-- `ok` of load and step. -/
  | ok
  /-- `fault(f)` of step. -/
  | fault (f : Fault)
  /-- load of too many bytes, or deliver_key of a number above 15: nothing changes. -/
  | refused
  /-- A call that returns nothing. -/
  | done
  /-- tick_timers' tone. -/
  | tone (b : Bool)
  /-- finished()'s answer, and the host's reads. -/
  | isFinished (b : Bool)
  | frame (bytes : List Byte)
  | updated (b : Bool)
  | keys (down : Vector Bool 16)
  | waiting (r : Option Reg)
  | recorded (f : Option Fault)
  deriving DecidableEq, Repr

/-- The reply of a step that answered `s`. -/
def stepReply (s : State) : Reply :=
  match s.returned with
  | some f => .fault f
  | none => .ok

/-- `step()` as the host calls it. step always answers a next state (Laws/Step.lean); the last two arms keep the
function total. -/
def State.callStep (s : State) : State × Reply :=
  match step s with
  | .next t => (t, stepReply t)
  | .fault _ => (s, .refused)
  | .refused _ => (s, .refused)

/-- One call: the state after it and what it returns. Reads change nothing (10_state.md R47, R54). A number above 15
is refused before anything else, for the host has no such call (46_keypad.md R316; log entry 8). -/
def State.call (s : State) : HostCall → State × Reply
  | .load bytes =>
    match s.load bytes with
    | some t => (t, .ok)
    | none => (s, .refused)
  | .step => s.callStep
  | .tickTimers => (s.tickTimers.1, .tone s.tickTimers.2)
  | .deliverKey k => if h : k < 16 then (s.deliverKey ⟨k, h⟩, .done) else (s, .refused)
  | .reboot => (s.reboot, .done)
  | .finished => (s, .isFinished s.finished)
  | .readFB => (s, .frame s.frame)
  | .readUPD => (s, .updated s.upd)
  | .readKEY => (s, .keys s.key)
  | .readWAIT => (s, .waiting s.wait)
  | .readFAULT => (s, .recorded s.fault)
  | .writeKEY k down => (s.writeKey k down, .done)

/-- The state after a list of calls, in order (40_execution_cycle.md R151). -/
def State.calls (s : State) (cs : List HostCall) : State := cs.foldl (fun t c => (t.call c).1) s

/-- The state of a run after its first `k` calls. A run is what the host calls, in its order, without end: any calls
interleaved in any way (40_execution_cycle.md R151). -/
def State.afterCalls (s : State) (run : Nat → HostCall) : Nat → State
  | 0 => s
  | k + 1 => ((s.afterCalls run k).call (run k)).1

end Sys2Proof.Machine
end

