-- ==== Sys2Proof/Safety.lean ====
section
/-! DEFINITION. The terms claims use: the parts of the state and what it is for them to be unchanged, the invariant
every operation keeps, the states a machine can reach, and the ends of a run. -/

namespace Sys2Proof.Machine

/-! ## Frames -/

/-- The parts of the state (10_state.md R30), and the model's own two. -/
inductive Part where
  | params | mem | v | i | pc | sp | dt | st | key | wait | fb | upd | mend | fault | draws
  deriving DecidableEq, Repr

/-- The part is the same in `t` as in `s`. Memory is compared byte by byte, the framebuffer pixel by pixel. -/
def Part.same (s t : State) : Part → Prop
  | .params => t.params = s.params
  | .mem => ∀ a : Addr, t.readByte a = s.readByte a
  | .v => ∀ r : Reg, t.reg r = s.reg r
  | .i => t.i = s.i
  | .pc => t.pc = s.pc
  | .sp => t.sp = s.sp
  | .dt => t.dt = s.dt
  | .st => t.st = s.st
  | .key => ∀ k : Key, t.keyDown k = s.keyDown k
  | .wait => t.wait = s.wait
  | .fb => ∀ y x : Nat, y < 32 → x < 64 → t.pixel y x = s.pixel y x
  | .upd => t.upd = s.upd
  | .mend => t.mend = s.mend
  | .fault => t.fault = s.fault
  | .draws => t.draws = s.draws

/-- Every part but those listed is the same in `t` as in `s`. -/
def Unchanged (except : List Part) (s t : State) : Prop := ∀ p : Part, p ∉ except → p.same s t

/-- The parts an instruction can change besides FAULT, its `writes` column over the rules of the instruction files
(10_state.md R33, R35, R38, R39, R44 to R47). -/
def writesOf : Instr → List Part
  | .cls => [.fb, .upd]
  | .ret => [.sp, .pc]
  | .jp _ | .jpV0 _ | .seImm _ _ | .sneImm _ _ | .seReg _ _ | .sneReg _ _ | .skp _ | .sknp _ => [.pc]
  | .call _ => [.mem, .sp, .pc]
  | .ldImm _ _ | .addImm _ _ | .ldReg _ _ | .orReg _ _ | .andReg _ _ | .xorReg _ _ | .addReg _ _ | .subReg _ _
  | .shr _ _ | .subnReg _ _ | .shl _ _ | .ldVxDT _ => [.v]
  | .rnd _ _ => [.v, .draws]
  | .ldI _ | .addI _ | .ldF _ => [.i]
  | .drw _ _ _ => [.v, .fb, .upd]
  | .ldVxK _ => [.key, .wait]
  | .ldDTVx _ => [.dt]
  | .ldSTVx _ => [.st]
  | .ldB _ => [.mem]
  | .ldMemVx _ => [.mem, .i]
  | .ldVxMem _ => [.v, .i]

/-! ## The invariant -/

/-- The fault kind can occur under the parameters (60_exceptions.md R340, last column and the text after the
table). -/
def faultAllowed (p : Params) : Fault → Prop
  | .fetchOutOfRange _ | .fetchMisaligned _ | .unknownOpcode _ _ _ _ _ _ => True
  | .stackOverflow _ _ | .stackUnderflow _ _ => p.strictStack = true
  | .fontWrite _ _ => p.fontWrite = .fault
  | .fontDigitOutOfRange _ _ => p.fontDigit = .fault
  | .keyIndexOutOfRange _ _ => p.keyIndex = .fault

/-- What holds of every state a machine can reach: the two sparse arrays are canonical, every pixel is 0 or 255
(10_state.md R46), MEND is in [0x200, 0x1000] (R48), SP is even (R39), the font holds FONT_DATA unless the policy lets
a program change it (R52), and a recorded fault is of a kind the parameters allow (60_exceptions.md R340). -/
structure Inv (s : State) : Prop where
  memWf : Memory.wf s.params s.mem
  frameWf : Frame.wf s.fb
  frameBinary : ∀ y x : Nat, y < 32 → x < 64 → s.pixel y x = 0#8 ∨ s.pixel y x = 255#8
  mendLow : 0x200 ≤ s.mend
  mendHigh : s.mend ≤ 0x1000
  spEven : s.sp.toNat % 2 = 0
  fontIntact : s.params.fontWrite ≠ .writeThrough →
    ∀ a : Addr, inFont s.params a.toNat = true → s.readByte a = unlisted s.params a.toNat
  faultKind : ∀ f : Fault, s.fault = some f → faultAllowed s.params f

/-- The address a fault record names (60_exceptions.md R340, column "info recorded"). -/
def recordedPc : Fault → Word
  | .fetchOutOfRange pc | .fetchMisaligned pc | .unknownOpcode _ _ _ _ _ pc | .stackOverflow pc _
  | .stackUnderflow pc _ | .fontWrite pc _ | .fontDigitOutOfRange pc _ | .keyIndexOutOfRange pc _ => pc

/-! ## Sprites -/

/-- A set bit of the n-row sprite at I, drawn with origin (x0, y0), falls on the pixel at row py, column px: row
`row` of the sprite goes to screen row (y0 + row) mod 32, and offset b, counted from the most significant bit, to
column x0 + b (44_display.md R261, R262). Columns past 63 are no pixels. -/
def SpriteCovers (s : State) (x0 y0 n py px : Nat) : Prop :=
  ∃ row b : Nat, row < n ∧ b < 8 ∧ (y0 + row) % 32 = py ∧ x0 + b = px ∧
    (s.readByte (s.ea row)).getLsbD (7 - b) = true

/-! ## Reachable states -/

/-- The states of a machine constructed with `p`, after any calls in any order (40_execution_cycle.md R150, R151). -/
inductive Reachable (p : Params) : State → Prop where
  | constructed : Reachable p (State.construct p)
  | called {s : State} (c : HostCall) (h : Reachable p s) : Reachable p (s.call c).1

/-- A call that can neither end a wait nor load a program: not deliver_key of a key, reboot or load
(46_keypad.md R315). -/
def HostCall.leavesWait : HostCall → Bool
  | .deliverKey k => 16 ≤ k
  | .reboot | .load _ => false
  | .step | .tickTimers | .finished | .readFB | .readUPD | .readKEY | .readWAIT | .readFAULT | .writeKEY _ _ => true

/-- A call that neither loads a program nor restarts the machine. -/
def HostCall.keepsProgram : HostCall → Bool
  | .reboot | .load _ => false
  | .step | .tickTimers | .deliverKey _ | .finished | .readFB | .readUPD | .readKEY | .readWAIT | .readFAULT
  | .writeKEY _ _ => true

/-! ## The ends of a run (40_execution_cycle.md R142) -/

/-- `finished()` is true and no fault is recorded. -/
def EndsFinished (s : State) : Prop := s.finished = true ∧ s.fault = none

/-- A fault is recorded. -/
def EndsFaulted (s : State) : Prop := s.fault ≠ none

/-- The machine waits for a key and no fault is recorded. -/
def EndsWaiting (s : State) : Prop := s.wait ≠ none ∧ s.fault = none

/-- A step of `s` executes an instruction or raises a fault: no fault is recorded and no key awaited
(40_execution_cycle.md R131). -/
def Running (s : State) : Prop := s.fault = none ∧ s.wait = none

/-- The run from `s` is unbounded: after no number of its calls is the machine at one of the three ends. Whether it is
depends on the ticks, key writes and delivered keys among the calls as much as on the program (R151). -/
def EndsNever (s : State) (run : Nat → HostCall) : Prop :=
  ∀ k : Nat, ¬ EndsFinished (s.afterCalls run k) ∧ ¬ EndsFaulted (s.afterCalls run k) ∧
    ¬ EndsWaiting (s.afterCalls run k)

end Sys2Proof.Machine
end

