-- ==== Sys2Proof/Certificates/Slice0/Obligations.lean ====
section
/-! DEFINITION. The statements for the provers. "D<n>" is a decision of 92_eei_decisions.md: the spec's own choice,
followed by the model (log entries 13 to 20). -/

open Sys2Proof Sys2Proof.Machine

/-! ## Encoding -/

/-- Words written out from the encodings of 30_encoding.md R104, one or more of every family, decode to the
instruction they stand for, and a 0nnn word is rejected (R106, D26). -/
def Obligations.SampleWordsDecode : Prop :=
  decodeWord 0x00E0#16 = .ok .cls ∧ decodeWord 0x1234#16 = .ok (.jp 0x234#12) ∧
  decodeWord 0x2208#16 = .ok (.call 0x208#12) ∧ decodeWord 0x3A10#16 = .ok (.seImm 10 0x10#8) ∧
  decodeWord 0x8124#16 = .ok (.addReg 1 2) ∧ decodeWord 0xA2F0#16 = .ok (.ldI 0x2F0#12) ∧
  decodeWord 0xC30F#16 = .ok (.rnd 3 0x0F#8) ∧ decodeWord 0xD123#16 = .ok (.drw 1 2 3) ∧
  decodeWord 0xE5A1#16 = .ok (.sknp 5) ∧ decodeWord 0xF507#16 = .ok (.ldVxDT 5) ∧
  decodeWord 0xFF65#16 = .ok (.ldVxMem 15) ∧ decodeWord 0x0123#16 = .error (.unknownOpcode 0x0123#16)

/-- Decoding the word of any well-formed instruction gives the instruction back, every operand at every value
(30_encoding.md R103, R104). -/
def Obligations.DecodeOfEncodeIsTheInstruction : Prop :=
  ∀ i : Instr, WellFormed i → decodeWord (encode i) = .ok i

/-- A word that decodes is the word of the instruction it decodes to, so no legal word is an alias of another and no
bit of it is dropped (30_encoding.md R107, which the spec marks derived). -/
def Obligations.EncodeOfDecodeIsTheWord : Prop :=
  ∀ (w : Word) (i : Instr), decodeWord w = .ok i → WellFormed i ∧ encode i = w

/-- The decoder follows the opcode map: it answers an instruction exactly of the one row whose mask and match select
the word, and rejects, with the word itself, exactly the words no row selects; no word selects two rows
(30_encoding.md R104, R105). -/
def Obligations.DecodeFollowsTheOpcodeMap : Prop :=
  ∀ w : Word,
    (opcodeRows.filter fun r => r.selects w).length ≤ 1 ∧
    (∀ i : Instr, decodeWord w = .ok i → ∃ r ∈ opcodeRows, r.selects w = true ∧ r.mnemonic = i.mnemonic) ∧
    (∀ e : DecodeError, decodeWord w = .error e → e = .unknownOpcode w ∧ ∀ r ∈ opcodeRows, r.selects w = false)

/-- The illegal words are exactly the five spaces listed in 30_encoding.md R105, with op = w / 0x1000, n = w mod 0x10
and kk = w mod 0x100. -/
def Obligations.IllegalWordsAreTheListedSpaces : Prop :=
  ∀ w : Word, decodeWord w = .error (.unknownOpcode w) ↔
    (w.toNat / 0x1000 = 0x0 ∧ w.toNat ≠ 0x00E0 ∧ w.toNat ≠ 0x00EE) ∨
    ((w.toNat / 0x1000 = 0x5 ∨ w.toNat / 0x1000 = 0x9) ∧ w.toNat % 0x10 ≠ 0) ∨
    (w.toNat / 0x1000 = 0x8 ∧ w.toNat % 0x10 ∈ [0x8, 0x9, 0xA, 0xB, 0xC, 0xD, 0xF]) ∨
    (w.toNat / 0x1000 = 0xE ∧ w.toNat % 0x100 ∉ [0x9E, 0xA1]) ∨
    (w.toNat / 0x1000 = 0xF ∧ w.toNat % 0x100 ∉ [0x07, 0x0A, 0x15, 0x18, 0x1E, 0x29, 0x33, 0x55, 0x65])

/-! ## The step -/

/-- A running machine whose PC passes the fetch check and whose big-endian word at PC decodes to `i` steps as `i` does
after UPD is cleared and PC is advanced by 2 (40_execution_cycle.md R132 to R134, 20_memory.md R75, R78). -/
def Obligations.StepRunsTheDecodedInstruction : Prop :=
  ∀ (s : State) (i : Instr), Running s → 0x200 ≤ s.pc.toNat → s.pc.toNat < s.mend → s.pc.toNat % 2 = 0 →
    decodeWord (joinBytes (s.readByte (low12 s.pc)) (s.readByte (low12 (s.pc + 1#16)))) = .ok i →
    step s = exec i { s with upd := false, pc := s.pc + 2#16 }

/-- A step with FAULT or WAIT set changes nothing, not even UPD (40_execution_cycle.md R131; D16, D22). -/
def Obligations.SuspendedStepChangesNothing : Prop :=
  ∀ s : State, s.fault ≠ none ∨ s.wait ≠ none → step s = .next s

/-- A step of a running machine first clears UPD: what UPD was makes no difference, and after the step it is set only
where the instruction was CLS or DRW (40_execution_cycle.md R132). -/
def Obligations.StepClearsUpdFirst : Prop :=
  ∀ s : State, Running s →
    step s = step { s with upd := false } ∧
    ∀ t : State, step s = .next t → t.upd = true →
      decodeWord s.fetchWord = .ok .cls ∨ ∃ x y n, decodeWord s.fetchWord = .ok (.drw x y n)

/-- The fetch check, range before evenness: out of [0x200, MEND) is FetchOutOfRange, odd within it is
FetchMisaligned; PC stays, UPD is cleared (20_memory.md R78, D3; 60_exceptions.md R345, D23). -/
def Obligations.BadFetchFaults : Prop :=
  ∀ s : State, Running s →
    (s.pc.toNat < 0x200 ∨ s.mend ≤ s.pc.toNat →
      step s = .next { s with upd := false, fault := some (.fetchOutOfRange s.pc) }) ∧
    (0x200 ≤ s.pc.toNat ∧ s.pc.toNat < s.mend ∧ s.pc.toNat % 2 = 1 →
      step s = .next { s with upd := false, fault := some (.fetchMisaligned s.pc) })

/-- A step while finished() is true faults with FetchOutOfRange (40_execution_cycle.md R141, which the spec marks
derived). -/
def Obligations.StepWhileFinishedFaults : Prop :=
  ∀ s : State, Running s → s.finished = true →
    step s = .next { s with upd := false, fault := some (.fetchOutOfRange s.pc) }

/-- A legal fetch of an illegal word raises UnknownOpcode with the word, its nibbles and its address; PC is past the
word, UPD is cleared, and nothing else changes (30_encoding.md R105; 60_exceptions.md R345, D23). -/
def Obligations.IllegalWordFaults : Prop :=
  ∀ (s : State) (w : Word), Running s → 0x200 ≤ s.pc.toNat → s.pc.toNat < s.mend → s.pc.toNat % 2 = 0 →
    w = joinBytes (s.readByte (low12 s.pc)) (s.readByte (low12 (s.pc + 1#16))) →
    (∀ i : Instr, decodeWord w ≠ .ok i) →
    step s = .next { s with
      upd := false
      pc := s.pc + 2#16
      fault := some (.unknownOpcode w (w.extractLsb' 12 4) (w.extractLsb' 8 4) (w.extractLsb' 4 4)
        (w.extractLsb' 0 4) s.pc) }

/-- Every step of every state answers a next state: no instruction and no word ends the model's run
(40_execution_cycle.md R135, 60_exceptions.md R346; that a fault is a next state is the model's choice, log entry
4). -/
def Obligations.EveryStepAnswersANextState : Prop :=
  ∀ s : State, ∃ t : State, step s = .next t

/-- Faults are precise: a step that raises leaves every element as it was but UPD, FAULT, and, for codes 3 to 8, PC
(60_exceptions.md R345, D23). -/
def Obligations.FaultsArePrecise : Prop :=
  ∀ (s t : State) (f : Fault), Running s → step s = .next t → t.fault = some f →
    t = { s with
      upd := false
      pc := if faultCode f ≤ 2 then s.pc else s.pc + 2#16
      fault := some f }

/-- A fault record names the address of the instruction concerned (60_exceptions.md R340, D23). -/
def Obligations.FaultRecordsNameTheInstruction : Prop :=
  ∀ (s t : State) (f : Fault), Running s → step s = .next t → t.fault = some f → recordedPc f = s.pc

/-- The faults each instruction can raise, and under which parameters (60_exceptions.md R341 and R340's table, which
the spec marks derived). FontWrite of 2nnn is of FONT_BASE = 0x0FF and SP = 0xFE only, at every even SP, which is every
SP a run reaches (41_control_flow.md R162; an odd SP is log entry 7). -/
def Obligations.OnlyTheListedInstructionsFault : Prop :=
  ∀ (i : Instr) (s t : State) (f : Fault), s.fault = none → exec i s = .next t → t.fault = some f →
    faultAllowed s.params f ∧
    ((∃ nnn, i = .call nnn) ∧ (faultCode f = 4 ∨ faultCode f = 6) ∨
     i = .ret ∧ faultCode f = 5 ∨
     ((∃ x, i = .ldB x) ∨ ∃ x, i = .ldMemVx x) ∧ faultCode f = 6 ∨
     (∃ x, i = .ldF x) ∧ faultCode f = 7 ∨
     ((∃ x, i = .skp x) ∨ ∃ x, i = .sknp x) ∧ faultCode f = 8) ∧
    ((∃ nnn, i = .call nnn) → faultCode f = 6 → s.sp.toNat % 2 = 0 →
      s.params.fontBase = .at0FF ∧ s.sp.toNat = 0xFE)

/-! ## ALU (42_alu.md) -/

/-- 6xkk, 7xkk, 8xy0, 8xy1, 8xy2, 8xy3: Vx gets the result, every other register (VF too) and every other part of the
state is unchanged; the encodings are those of R104 (42_alu.md R192 to R197). -/
def Obligations.LoadsLogicAndAddImmediate : Prop :=
  ∀ (s : State) (x y : Reg) (kk : Byte),
    let Writes := fun (i : Instr) (mask pattern : Word) (result : Byte) =>
      encode i &&& mask = pattern ∧ ∃ t : State, exec i s = .next t ∧
        (∀ r : Reg, t.reg r = if r = x then result else s.reg r) ∧ Unchanged [.v] s t
    Writes (.ldImm x kk) 0xF000#16 0x6000#16 kk ∧
    Writes (.addImm x kk) 0xF000#16 0x7000#16 (BitVec.ofNat 8 ((s.reg x).toNat + kk.toNat)) ∧
    Writes (.ldReg x y) 0xF00F#16 0x8000#16 (s.reg y) ∧
    Writes (.orReg x y) 0xF00F#16 0x8001#16 (s.reg x ||| s.reg y) ∧
    Writes (.andReg x y) 0xF00F#16 0x8002#16 (s.reg x &&& s.reg y) ∧
    Writes (.xorReg x y) 0xF00F#16 0x8003#16 (s.reg x ^^^ s.reg y)

/-- 8xy4, 8xy5, 8xy7: Vx gets the wrapped result and VF the carry or the absence of a borrow, both of the old operands;
the flag wins where x = 15 (42_alu.md R200, R201, R203; the order of the writes is D9, log entry 16). -/
def Obligations.AddAndSubtractSetVF : Prop :=
  ∀ (s : State) (x y : Reg),
    let a := (s.reg x).toNat
    let b := (s.reg y).toNat
    let Writes := fun (i : Instr) (result : Nat) (flag : Bool) => ∃ t : State, exec i s = .next t ∧
      (∀ r : Reg, t.reg r =
        if r = vF then (if flag then 1#8 else 0#8) else if r = x then BitVec.ofNat 8 result else s.reg r) ∧
      Unchanged [.v] s t
    Writes (.addReg x y) (a + b) (0xFF < a + b) ∧
    Writes (.subReg x y) (a + 256 - b) (b ≤ a) ∧
    Writes (.subnReg x y) (b + 256 - a) (a ≤ b)

/-- 8xy6, 8xyE: Vx is shifted by one, VF gets the bit shifted out of the old Vx, and Vy has no part in it, whatever y
is (42_alu.md R199, R202, R204; the order of the writes is D9, log entry 16). -/
def Obligations.ShiftsSetVF : Prop :=
  ∀ (s : State) (x y : Reg),
    let a := (s.reg x).toNat
    let Writes := fun (i : Instr) (result flag : Nat) => ∃ t : State, exec i s = .next t ∧
      (∀ r : Reg, t.reg r =
        if r = vF then BitVec.ofNat 8 flag else if r = x then BitVec.ofNat 8 result else s.reg r) ∧
      Unchanged [.v] s t
    Writes (.shr x y) (a / 2) (a % 2) ∧ Writes (.shl x y) (a * 2) (a / 128)

/-- Cxkk: Vx gets the draw AND kk, for whatever the draw is, and the next draw is another; nothing else changes
(42_alu.md R205; the free draw is D13, log entry 3). -/
def Obligations.RandomIsTheDrawMasked : Prop :=
  ∀ (s : State) (x : Reg) (kk : Byte), ∃ (r : Byte) (t : State),
    r = Config.draw s.draws ∧ exec (.rnd x kk) s = .next t ∧ t.draws = s.draws + 1 ∧
    (∀ q : Reg, t.reg q = if q = x then r &&& kk else s.reg q) ∧ Unchanged [.v, .draws] s t ∧
    ∀ b : Nat, kk.getLsbD b = false → (t.reg x).getLsbD b = false

/-! ## Control flow (41_control_flow.md) -/

/-- 1nnn sets PC to nnn; 3xkk, 4xkk, 5xy0, 9xy0 add 2 to PC (which is already past the instruction) where their
condition holds and leave it where not; nothing else changes; the encodings are those of R104, and a word of op 5 or 9
with another last nibble is illegal (41_control_flow.md R161, R165 to R168). -/
def Obligations.JumpAndSkips : Prop :=
  ∀ (s : State) (x y : Reg) (kk : Byte) (nnn : Addr),
    let Moves := fun (i : Instr) (mask pattern pc : Word) =>
      encode i &&& mask = pattern ∧ ∃ t : State, exec i s = .next t ∧ t.pc = pc ∧ Unchanged [.pc] s t
    Moves (.jp nnn) 0xF000#16 0x1000#16 (BitVec.ofNat 16 nnn.toNat) ∧
    Moves (.seImm x kk) 0xF000#16 0x3000#16 (if s.reg x = kk then s.pc + 2#16 else s.pc) ∧
    Moves (.sneImm x kk) 0xF000#16 0x4000#16 (if s.reg x = kk then s.pc else s.pc + 2#16) ∧
    Moves (.seReg x y) 0xF00F#16 0x5000#16 (if s.reg x = s.reg y then s.pc + 2#16 else s.pc) ∧
    Moves (.sneReg x y) 0xF00F#16 0x9000#16 (if s.reg x = s.reg y then s.pc else s.pc + 2#16) ∧
    ∀ w : Word, w &&& 0xF000#16 = 0x5000#16 ∨ w &&& 0xF000#16 = 0x9000#16 → w &&& 0x000F#16 ≠ 0#16 →
      decodeWord w = .error (.unknownOpcode w)

/-- Bnnn sets PC to the exact sum nnn + V0, at most 0x10FE, not reduced to 12 bits; nothing else changes
(41_control_flow.md R169; no mask is D8, log entry 15). -/
def Obligations.JumpV0AddsWithoutMask : Prop :=
  ∀ (s : State) (nnn : Addr), ∃ t : State, exec (.jpV0 nnn) s = .next t ∧
    t.pc.toNat = nnn.toNat + (s.reg 0).toNat ∧ t.pc.toNat ≤ 0x10FE ∧ Unchanged [.pc] s t

/-- 2nnn, where no check faults: PC is nnn, SP is SP + 2 mod 256, the return address is stored big-endian at SP and
SP + 1 (a byte in the font region only under write_through), every other byte and every other part is unchanged
(41_control_flow.md R162; D4, D5, log entry 13; D12, log entry 14). -/
def Obligations.CallPushesAndJumps : Prop :=
  ∀ (s : State) (nnn : Addr),
    (s.params.strictStack = true → s.sp.toNat < 0xFE) →
    (s.params.fontWrite = .fault →
      inFont s.params s.pushHigh.toNat = false ∧ inFont s.params s.pushLow.toNat = false) →
    ∃ t : State, exec (.call nnn) s = .next t ∧
      t.pc = BitVec.ofNat 16 nnn.toNat ∧ t.sp = BitVec.ofNat 8 (s.sp.toNat + 2) ∧
      (∀ a : Addr, t.readByte a =
        if a = s.pushHigh ∧ s.writable a = true then BitVec.ofNat 8 (s.pc.toNat / 256)
        else if a = s.pushLow ∧ s.writable a = true then BitVec.ofNat 8 s.pc.toNat
        else s.readByte a) ∧
      Unchanged [.mem, .sp, .pc] s t

/-- Where 2nnn faults, and with which record, the strict-mode check first (41_control_flow.md R162, 60_exceptions.md
R343; D6, D12, D25, log entries 13, 14, 19). -/
def Obligations.CallFaults : Prop :=
  ∀ (s : State) (nnn : Addr),
    let Raises := fun f : Fault => exec (.call nnn) s = .next { s with fault := some f }
    let strictFull := s.params.strictStack = true ∧ 0xFE ≤ s.sp.toNat
    (strictFull → Raises (.stackOverflow (s.pc - 2#16) s.sp)) ∧
    (¬ strictFull ∧ s.params.fontWrite = .fault ∧ inFont s.params s.pushHigh.toNat = true →
      Raises (.fontWrite (s.pc - 2#16) s.pushHigh)) ∧
    (¬ strictFull ∧ s.params.fontWrite = .fault ∧ inFont s.params s.pushHigh.toNat = false ∧
        inFont s.params s.pushLow.toNat = true →
      Raises (.fontWrite (s.pc - 2#16) s.pushLow))

/-- 00EE: SP is SP - 2 mod 256 and PC the big-endian word there, nothing else changes and no byte is cleared; in
strict mode with SP < 2 it raises StackUnderflow (41_control_flow.md R164; D4, D5, D6, log entry 13). -/
def Obligations.ReturnPopsPc : Prop :=
  ∀ s : State,
    let sp' : Byte := BitVec.ofNat 8 (s.sp.toNat + 254)
    (s.params.strictStack = false ∨ 2 ≤ s.sp.toNat →
      ∃ t : State, exec .ret s = .next t ∧ t.sp = sp' ∧
        t.pc.toNat = (s.readByte (BitVec.ofNat 12 sp'.toNat)).toNat * 256 +
          (s.readByte (BitVec.ofNat 12 (sp'.toNat + 1))).toNat ∧
        Unchanged [.sp, .pc] s t) ∧
    (s.params.strictStack = true ∧ s.sp.toNat < 2 →
      exec .ret s = .next { s with fault := some (.stackUnderflow (s.pc - 2#16) s.sp) })

/-- A CALL followed directly by a RET restores PC to the address after the CALL, and SP; only memory may differ
(41_control_flow.md R163, which the spec marks derived). -/
def Obligations.CallThenReturnRestoresPcAndSp : Prop :=
  ∀ (s : State) (nnn : Addr),
    (s.params.strictStack = true → s.sp.toNat < 0xFE) →
    s.writable s.pushHigh = true → s.writable s.pushLow = true →
    ∃ t u : State, exec (.call nnn) s = .next t ∧ exec .ret t = .next u ∧
      u.pc = s.pc ∧ u.sp = s.sp ∧ Unchanged [.mem] s u

/-! ## Index register and memory (43_index_memory.md) -/

/-- A data address is (I + k) mod 4096, whatever I is (20_memory.md R81, D7, log entry 15). -/
def Obligations.EffectiveAddressWraps : Prop :=
  ∀ (s : State) (k : Nat), (s.ea k).toNat = (s.i.toNat + k) % 0x1000

/-- Annn: I is nnn and nothing else changes; the encoding is that of R104 (43_index_memory.md R231). -/
def Obligations.LoadIndex : Prop :=
  ∀ (s : State) (nnn : Addr), encode (.ldI nnn) &&& 0xF000#16 = 0xA000#16 ∧
    ∃ t : State, exec (.ldI nnn) s = .next t ∧ t.i.toNat = nnn.toNat ∧ t.i.toNat ≤ 0xFFF ∧ Unchanged [.i] s t

/-- Fx1E: I is I + Vx mod 2^16 and nothing else changes, VF neither (43_index_memory.md R232, D7, log entry 15). -/
def Obligations.AddToIndex : Prop :=
  ∀ (s : State) (x : Reg), ∃ t : State, exec (.addI x) s = .next t ∧
    t.i.toNat = (s.i.toNat + (s.reg x).toNat) % 0x10000 ∧ Unchanged [.i] s t

/-- Fx29: I is the address of the glyph of digit Vx; above 0xF the policy decides, and `fault` raises
FontDigitOutOfRange (43_index_memory.md R233; D1, D10, log entry 14). -/
def Obligations.LoadGlyphAddress : Prop :=
  ∀ (s : State) (x : Reg),
    let d := (s.reg x).toNat
    let Points := fun digit : Nat => ∃ t : State, exec (.ldF x) s = .next t ∧
      t.i.toNat = fontBaseAddr s.params.fontBase + 5 * digit ∧ Unchanged [.i] s t
    (d ≤ 0xF → Points d) ∧
    (0xF < d ∧ s.params.fontDigit = .lowNibble → Points (d % 16)) ∧
    (0xF < d ∧ s.params.fontDigit = .unmasked → Points d) ∧
    (0xF < d ∧ s.params.fontDigit = .fault →
      exec (.ldF x) s = .next { s with fault := some (.fontDigitOutOfRange (s.pc - 2#16) (s.reg x)) })

/-- Fx33, where no address is in a font that faults: the hundreds, tens and ones of Vx go to EA(0), EA(1), EA(2) (a
byte in the font region only under write_through), every other byte and every other part is unchanged
(43_index_memory.md R234; D7, D12, log entries 14, 15). -/
def Obligations.BcdStoresThreeDigits : Prop :=
  ∀ (s : State) (x : Reg),
    (s.params.fontWrite = .fault → ∀ k < 3, inFont s.params (s.ea k).toNat = false) →
    let d := (s.reg x).toNat
    ∃ t : State, exec (.ldB x) s = .next t ∧
      (∀ a : Addr, t.readByte a =
        if a = s.ea 0 ∧ s.writable a = true then BitVec.ofNat 8 (d / 100)
        else if a = s.ea 1 ∧ s.writable a = true then BitVec.ofNat 8 (d / 10 % 10)
        else if a = s.ea 2 ∧ s.writable a = true then BitVec.ofNat 8 (d % 10)
        else s.readByte a) ∧
      Unchanged [.mem] s t

/-- Fx55, where no address is in a font that faults: V[k] goes to EA(k) for k = 0 to x (a byte in the font region only
under write_through), I grows by x + 1 mod 2^16, every other byte and every other part is unchanged
(43_index_memory.md R235; D7, D12, log entries 14, 15). -/
def Obligations.StoreRegistersWritesTheRange : Prop :=
  ∀ (s : State) (x : Reg),
    (s.params.fontWrite = .fault → ∀ k : Reg, k ≤ x → inFont s.params (s.ea k.val).toNat = false) →
    ∃ t : State, exec (.ldMemVx x) s = .next t ∧
      t.i.toNat = (s.i.toNat + x.val + 1) % 0x10000 ∧
      (∀ k : Reg, k ≤ x → s.writable (s.ea k.val) = true → t.readByte (s.ea k.val) = s.reg k) ∧
      (∀ a : Addr, (∀ k : Reg, k ≤ x → a = s.ea k.val → s.writable a = false) → t.readByte a = s.readByte a) ∧
      Unchanged [.mem, .i] s t

/-- Fx33 and Fx55 under FONT_WRITE_POLICY = fault, where the lowest offset whose address is in the font region is k:
FontWrite with that address, and nothing is written (20_memory.md R80, 60_exceptions.md R343, R345; D12, D23, log
entries 14, 19). That the record holds the 12-bit address where I is above 0xFFF is the model's reading, log entry
10. -/
def Obligations.FontWriteFaultNamesTheLowestOffset : Prop :=
  ∀ (s : State) (x : Reg) (k : Nat), s.params.fontWrite = .fault →
    inFont s.params (s.ea k).toNat = true → (∀ j < k, inFont s.params (s.ea j).toNat = false) →
    let t : State := { s with fault := some (.fontWrite (s.pc - 2#16) (s.ea k)) }
    (k < 3 → exec (.ldB x) s = .next t) ∧ (k ≤ x.val → exec (.ldMemVx x) s = .next t)

/-- Fx65: V[k] is MEM[EA(k)] for k = 0 to x with the old I, the other registers are unchanged, I grows by x + 1 mod
2^16, and no other part changes (43_index_memory.md R236; D7, log entry 15). -/
def Obligations.LoadRegistersReadsTheRange : Prop :=
  ∀ (s : State) (x : Reg), ∃ t : State, exec (.ldVxMem x) s = .next t ∧
    (∀ r : Reg, t.reg r = if r ≤ x then s.readByte (s.ea r.val) else s.reg r) ∧
    t.i.toNat = (s.i.toNat + x.val + 1) % 0x10000 ∧ Unchanged [.v, .i] s t

/-- Fx55 and then, with I set back and the registers changed in any way, Fx65 of the same range gives V0 to Vx back,
where the bytes can be written (43_index_memory.md R235, R236). -/
def Obligations.StoreThenLoadGivesTheRegistersBack : Prop :=
  ∀ (s : State) (x : Reg) (v' : Vector Byte 16), (∀ k : Reg, k ≤ x → s.writable (s.ea k.val) = true) →
    ∃ t u : State, exec (.ldMemVx x) s = .next t ∧ exec (.ldVxMem x) { t with i := s.i, v := v' } = .next u ∧
      (∀ r : Reg, r ≤ x → u.reg r = s.reg r) ∧ u.i = t.i

/-! ## Display (44_display.md) -/

/-- 00E0: every pixel is 0 and UPD is set; nothing else changes, VF neither (44_display.md R260; that UPD is set is
D15, log entry 17). -/
def Obligations.ClearTurnsEveryPixelOff : Prop :=
  ∀ s : State, ∃ t : State, exec .cls s = .next t ∧
    (∀ y x : Nat, y < 32 → x < 64 → t.pixel y x = 0#8) ∧ t.upd = true ∧ Unchanged [.fb, .upd] s t

/-- Dxyn always sets UPD, whatever the pixels do; of the registers only VF changes, and besides them only FB
(44_display.md R264). -/
def Obligations.DrawAlwaysSetsUpd : Prop :=
  ∀ (s : State) (x y : Reg) (n : Nat), ∃ t : State, exec (.drw x y n) s = .next t ∧ t.upd = true ∧
    (∀ r : Reg, r ≠ vF → t.reg r = s.reg r) ∧ Unchanged [.v, .fb, .upd] s t

/-- Dxyn, pixel by pixel: a pixel a set bit of the sprite falls on is inverted, on to 0 and off to 255, and every other
pixel is unchanged; the origin is (Vx mod 64, Vy mod 32) of the old registers, columns are clipped and rows wrap
(44_display.md R261, R262; the bit order is D14, log entry 17). -/
def Obligations.DrawInvertsTheCoveredPixels : Prop :=
  ∀ (s : State) (x y : Reg) (n : Nat), n < 16 → ∃ t : State, exec (.drw x y n) s = .next t ∧
    ∀ py px : Nat, py < 32 → px < 64 →
      let covered := SpriteCovers s ((s.reg x).toNat % 64) ((s.reg y).toNat % 32) n py px
      (covered → t.pixel py px = if s.pixel py px = 0#8 then 255#8 else 0#8) ∧
      (¬ covered → t.pixel py px = s.pixel py px)

/-- After Dxyn, VF is 1 when some pixel went from on to off, over the whole sprite, and 0 otherwise (44_display.md
R263). -/
def Obligations.CollisionFlagCoversTheWholeSprite : Prop :=
  ∀ (s : State) (x y : Reg) (n : Nat), n < 16 → ∃ t : State, exec (.drw x y n) s = .next t ∧
    ((∃ py px : Nat, py < 32 ∧ px < 64 ∧ s.pixel py px ≠ 0#8 ∧ t.pixel py px = 0#8) → t.reg vF = 1#8) ∧
    (¬ (∃ py px : Nat, py < 32 ∧ px < 64 ∧ s.pixel py px ≠ 0#8 ∧ t.pixel py px = 0#8) → t.reg vF = 0#8)

/-- Drawing the same sprite twice at the same place restores every pixel of a frame of 0 and 255, and the second draw
sets VF exactly where some pixel under a set bit was off before the first (44_display.md R265, which the spec marks
derived; its words "the second draw sets VF = 1" hold of such a frame, log entry 12). -/
def Obligations.DrawTwiceRestoresTheFrame : Prop :=
  ∀ (s : State) (x y : Reg) (n : Nat), n < 16 → x ≠ vF → y ≠ vF →
    (∀ py px : Nat, py < 32 → px < 64 → s.pixel py px = 0#8 ∨ s.pixel py px = 255#8) →
    ∃ t u : State, exec (.drw x y n) s = .next t ∧ exec (.drw x y n) t = .next u ∧
      (∀ py px : Nat, py < 32 → px < 64 → u.pixel py px = s.pixel py px) ∧
      (u.reg vF = 1#8 ↔ ∃ py px : Nat, py < 32 ∧ px < 64 ∧ s.pixel py px = 0#8 ∧
        SpriteCovers s ((s.reg x).toNat % 64) ((s.reg y).toNat % 32) n py px)

/-! ## Timers (45_timers.md) -/

/-- Fx07 reads DT into Vx; Fx15 and Fx18 write Vx into DT and ST; nothing else changes; the encodings are those of
R104 (45_timers.md R291 to R293). -/
def Obligations.TimerInstructions : Prop :=
  ∀ (s : State) (x : Reg),
    (encode (.ldVxDT x) &&& 0xF0FF#16 = 0xF007#16 ∧ ∃ t : State, exec (.ldVxDT x) s = .next t ∧
      (∀ r : Reg, t.reg r = if r = x then s.dt else s.reg r) ∧ Unchanged [.v] s t) ∧
    (encode (.ldDTVx x) &&& 0xF0FF#16 = 0xF015#16 ∧ ∃ t : State, exec (.ldDTVx x) s = .next t ∧
      t.dt = s.reg x ∧ Unchanged [.dt] s t) ∧
    (encode (.ldSTVx x) &&& 0xF0FF#16 = 0xF018#16 ∧ ∃ t : State, exec (.ldSTVx x) s = .next t ∧
      t.st = s.reg x ∧ Unchanged [.st] s t)

/-- tick_timers on a machine with no fault: DT and ST each go down by one and stop at 0, neither depends on the other,
and the tone is returned exactly where ST was above 0 (45_timers.md R294 to R296). -/
def Obligations.TickCountsBothTimersDown : Prop :=
  ∀ s : State, s.fault = none → ∃ t : State, s.call .tickTimers = (t, .tone (0 < s.st.toNat)) ∧
    t.dt.toNat = s.dt.toNat - 1 ∧ t.st.toNat = s.st.toNat - 1 ∧ Unchanged [.dt, .st] s t

/-- n ticks of a machine with no fault take DT to DT - n, or to 0 and leave it there; the same of ST; a wait makes no
difference (45_timers.md R294, R295, R297). -/
def Obligations.TicksReachZeroAndStay : Prop :=
  ∀ (s : State) (n : Nat), s.fault = none →
    let t := s.calls (List.replicate n .tickTimers)
    t.dt.toNat = s.dt.toNat - n ∧ t.st.toNat = s.st.toNat - n ∧ Unchanged [.dt, .st] s t

/-! ## Keypad (46_keypad.md) -/

/-- Ex9E skips if the key numbered by Vx is down and ExA1 if it is up; nothing else changes. A number above 0xF is its
low nibble under low_nibble, and raises KeyIndexOutOfRange under fault (46_keypad.md R311 to R313; D11, log entry
18). -/
def Obligations.KeySkips : Prop :=
  ∀ (s : State) (x : Reg),
    let k := (s.reg x).toNat
    let Moves := fun (i : Instr) (pc : Word) => ∃ t : State, exec i s = .next t ∧ t.pc = pc ∧ Unchanged [.pc] s t
    (k ≤ 0xF ∨ s.params.keyIndex = .lowNibble →
      Moves (.skp x) (if s.keyDown (Fin.ofNat 16 k) then s.pc + 2#16 else s.pc) ∧
      Moves (.sknp x) (if s.keyDown (Fin.ofNat 16 k) then s.pc else s.pc + 2#16)) ∧
    (0xF < k ∧ s.params.keyIndex = .fault →
      let t : State := { s with fault := some (.keyIndexOutOfRange (s.pc - 2#16) (s.reg x)) }
      exec (.skp x) s = .next t ∧ exec (.sknp x) s = .next t)

/-- Fx0A: every key is up and WAIT is some(x); nothing else changes, neither Vx nor PC, which is already past the
instruction; the encoding is that of R104 (46_keypad.md R314). -/
def Obligations.WaitForKeyClearsKeysAndWaits : Prop :=
  ∀ (s : State) (x : Reg), encode (.ldVxK x) &&& 0xF0FF#16 = 0xF00A#16 ∧ ∃ t : State, exec (.ldVxK x) s = .next t ∧
    (∀ k : Key, t.keyDown k = false) ∧ t.wait = some x ∧ Unchanged [.key, .wait] s t

/-- deliver_key of a key on a machine that waits for register r with no fault: V[r] is the key number and WAIT is
none, and nothing else changes; outside a wait nothing changes; a number above 15 is refused (46_keypad.md R316; D27,
log entry 18). -/
def Obligations.DeliverKeyEndsTheWait : Prop :=
  ∀ (s : State) (k : Nat), s.fault = none →
    (∀ r : Reg, k < 16 → s.wait = some r → ∃ t : State, s.call (.deliverKey k) = (t, .done) ∧
      t.wait = none ∧ (∀ q : Reg, t.reg q = if q = r then BitVec.ofNat 8 k else s.reg q) ∧
      Unchanged [.v, .wait] s t) ∧
    (k < 16 → s.wait = none → s.call (.deliverKey k) = (s, .done)) ∧
    (16 ≤ k → s.call (.deliverKey k) = (s, .refused))

/-- While a machine waits, any calls but a delivered key, a reboot or a load, in any order and number, leave PC, the V
registers, I, SP, MEM, FB and the wait as they were: only the keys and the timers may differ. A key delivered then goes
into the awaited register (46_keypad.md R315, R317, the latter marked derived by the spec). -/
def Obligations.WaitProtocol : Prop :=
  ∀ (s : State) (r : Reg) (cs : List HostCall), s.fault = none → s.wait = some r →
    (∀ c ∈ cs, c.leavesWait = true) →
    Unchanged [.key, .dt, .st] s (s.calls cs) ∧
    ∀ k : Key, ((s.calls cs).call (.deliverKey k.val)).1.wait = none ∧
      ((s.calls cs).call (.deliverKey k.val)).1.reg r = BitVec.ofNat 8 k.val

/-! ## Host operations -/

/-- construct: every element at its value of 10_state.md R52: the font at FONT_BASE, every other byte 0, PC and MEND
0x200, all else zero, false or none (70_reset_and_hazards.md R380, R381; D1, D2, D18, log entries 14, 20). The count
of draws is the model's own and no rule's (log entry 3). -/
def Obligations.ConstructedState : Prop :=
  ∀ p : Params,
    let s := State.construct p
    (∀ a : Addr, s.readByte a =
      if h : fontBaseAddr p.fontBase ≤ a.toNat ∧ a.toNat < fontBaseAddr p.fontBase + 80 then
        (p.fontData.get ⟨(a.toNat - fontBaseAddr p.fontBase) / 5, by omega⟩).get
          ⟨(a.toNat - fontBaseAddr p.fontBase) % 5, by omega⟩
      else 0#8) ∧
    (∀ r : Reg, s.reg r = 0#8) ∧ s.i = 0#16 ∧ s.pc = 0x200#16 ∧ s.sp = 0#8 ∧ s.dt = 0#8 ∧ s.st = 0#8 ∧
    (∀ k : Key, s.keyDown k = false) ∧ s.wait = none ∧ (∀ y x : Nat, s.pixel y x = 0#8) ∧ s.upd = false ∧
    s.mend = 0x200 ∧ s.fault = none ∧ s.params = p

/-- load of at most 0xE00 bytes: byte j is at 0x200 + j, every other byte of MEM is as it was, MEND is 0x200 plus the
length, and nothing else changes; a longer load is refused and changes nothing (70_reset_and_hazards.md R382, R383;
D19, log entry 20). -/
def Obligations.LoadCopiesTheProgram : Prop :=
  ∀ (s : State) (bytes : List Byte),
    (bytes.length ≤ 0xE00 → ∃ t : State, s.call (.load bytes) = (t, .ok) ∧
      (∀ a : Addr, t.readByte a =
        if 0x200 ≤ a.toNat ∧ a.toNat < 0x200 + bytes.length then bytes.getD (a.toNat - 0x200) 0#8
        else s.readByte a) ∧
      t.mend = 0x200 + bytes.length ∧ Unchanged [.mem, .mend] s t) ∧
    (0xE00 < bytes.length → s.call (.load bytes) = (s, .refused))

/-- reboot: the font region and [0x200, MEND) keep their current bytes and every other byte is 0; MEND and the
parameters stay; every other element is as after construction (70_reset_and_hazards.md R384; D20, D21, log entry
20). -/
def Obligations.RebootKeepsOnlyTheProgram : Prop :=
  ∀ s : State, ∃ t : State, s.call .reboot = (t, .done) ∧
    (∀ a : Addr, t.readByte a =
      if inFont s.params a.toNat = true ∨ 0x200 ≤ a.toNat ∧ a.toNat < s.mend then s.readByte a else 0#8) ∧
    (∀ r : Reg, t.reg r = 0#8) ∧ t.i = 0#16 ∧ t.pc = 0x200#16 ∧ t.sp = 0#8 ∧ t.dt = 0#8 ∧ t.st = 0#8 ∧
    (∀ k : Key, t.keyDown k = false) ∧ t.wait = none ∧ (∀ y x : Nat, t.pixel y x = 0#8) ∧ t.upd = false ∧
    t.fault = none ∧ t.mend = s.mend ∧ t.params = s.params

/-- finished() answers true exactly where PC equals MEND, and changes nothing (40_execution_cycle.md R140). -/
def Obligations.FinishedIsPcAtMend : Prop :=
  ∀ s : State, ∃ b : Bool, s.call .finished = (s, .isFinished b) ∧ (b = true ↔ s.pc.toNat = s.mend)

/-- A halted machine: step changes nothing and returns the recorded fault, tick_timers changes nothing and returns
false, deliver_key changes nothing, only reboot clears FAULT, and every other call leaves it (60_exceptions.md R346;
D22, D34, log entry 19). -/
def Obligations.HaltedUntilReboot : Prop :=
  ∀ (s : State) (f : Fault), s.fault = some f →
    s.call .step = (s, .fault f) ∧ s.call .tickTimers = (s, .tone false) ∧
    (∀ k : Nat, (s.call (.deliverKey k)).1 = s) ∧
    (∀ c : HostCall, c ≠ .reboot → (s.call c).1.fault = some f) ∧ (s.call .reboot).1.fault = none

/-- What the host's calls other than step and reboot can change: load MEM and MEND, tick_timers DT and ST, deliver_key
V and WAIT, a key write that key; finished() and the reads of FB, UPD, KEY, WAIT and FAULT nothing, and a read returns
what is there (40_execution_cycle.md R150, R152, R154; 10_state.md R54; D17, D33, log entries 17, 18). -/
def Obligations.HostCallFrames : Prop :=
  ∀ (s : State) (bytes : List Byte) (k : Nat) (q : Key) (down : Bool),
    Unchanged [.mem, .mend] s (s.call (.load bytes)).1 ∧
    Unchanged [.dt, .st] s (s.call .tickTimers).1 ∧
    Unchanged [.v, .wait] s (s.call (.deliverKey k)).1 ∧
    Unchanged [.key] s (s.call (.writeKEY q down)).1 ∧
    (∀ j : Key, (s.call (.writeKEY q down)).1.keyDown j = if j = q then down else s.keyDown j) ∧
    s.call .finished = (s, .isFinished s.finished) ∧
    s.call .readUPD = (s, .updated s.upd) ∧ s.call .readWAIT = (s, .waiting s.wait) ∧
    (∃ down : Vector Bool 16, s.call .readKEY = (s, .keys down) ∧ ∀ j : Key, down.get j = s.keyDown j) ∧
    s.call .readFAULT = (s, .recorded s.fault) ∧
    ∃ bs : List Byte, s.call .readFB = (s, .frame bs) ∧ bs.length = 2048 ∧
      ∀ y x : Nat, y < 32 → x < 64 → bs[y * 64 + x]? = some (s.pixel y x)

/-! ## The whole machine -/

/-- No instruction changes a part that its rule does not let it write, FAULT aside; where it raises a fault it changes
FAULT alone, and MEND and the parameters are changed by none (10_state.md R33, R35, R38, R39, R44 to R48, some marked
derived by the spec; 60_exceptions.md R345, D23, log entry 19). -/
def Obligations.InstructionsChangeOnlyWhatTheyWrite : Prop :=
  ∀ (i : Instr) (s t : State), exec i s = .next t →
    Unchanged (.fault :: writesOf i) s t ∧ (t.fault ≠ s.fault → Unchanged [.fault] s t) ∧
    t.mend = s.mend ∧ t.params = s.params

/-- A constructed machine meets the invariant, whatever its parameters (10_state.md R52). -/
def Obligations.InvariantHoldsAfterConstruction : Prop :=
  (∀ p : Params, Inv (State.construct p)) ∧ Inv State.reset

/-- Every step keeps the invariant, from every state that meets it (10_state.md R39, R46, R48, R52; 60_exceptions.md
R340). -/
def Obligations.EveryStepKeepsTheInvariant : Prop :=
  ∀ s t : State, Inv s → step s = .next t → Inv t

/-- Every host call keeps the invariant, and so every state reachable by any calls in any order meets it and has the
parameters the machine was constructed with (40_execution_cycle.md R151, 70_reset_and_hazards.md R380). -/
def Obligations.EveryReachableStateMeetsTheInvariant : Prop :=
  (∀ (s : State) (c : HostCall), Inv s → Inv (s.call c).1) ∧
  ∀ (p : Params) (s : State), Reachable p s → Inv s ∧ s.params = p

/-- In a state that meets the invariant, a push writes inside [0x000, 0x100), and with FONT_BASE = 0x100 it never meets
the font (20_memory.md R79, R80; marked derived by the spec). -/
def Obligations.PushStaysInTheStackRegion : Prop :=
  ∀ s : State, Inv s → s.pushHigh.toNat = s.sp.toNat ∧ s.pushLow.toNat = s.sp.toNat + 1 ∧
    s.pushLow.toNat < 0x100 ∧
    (s.params.fontBase = .at100 →
      inFont s.params s.pushHigh.toNat = false ∧ inFont s.params s.pushLow.toNat = false)

/-- Memories in canonical form that read the same at every address are the same data, and so are framebuffers (the
model's own representation, log entry 6). -/
def Obligations.CanonicalFormsAreUnique : Prop :=
  (∀ (p : Params) (m m' : List Host.Cell), Memory.wf p m → Memory.wf p m' →
    (∀ a < 4096, cellsRead (unlisted p) m a = cellsRead (unlisted p) m' a) → m = m') ∧
  (∀ fb fb' : List Host.Cell, Frame.wf fb → Frame.wf fb' →
    (∀ y x : Nat, y < 32 → x < 64 → fbRead fb y x = fbRead fb' y x) → fb = fb')

/-- The word `withFetchWord` places is the one the next step fetches and runs, whatever the state was (the model's own
loader, log entry 9). -/
def Obligations.PlacedWordRunsNext : Prop :=
  ∀ (s : State) (w : Nat) (i : Instr), decodeTableWord 16 w = some i →
    let t := s.withFetchWord 16 w
    step t = exec i { t with upd := false, pc := t.pc + 2#16 }

/-- A 1nnn to its own address never ends a run: whatever steps, ticks, key writes, delivered keys and reads the host
interleaves, the machine is never finished, faulted or waiting (40_execution_cycle.md R142's example of an unbounded
run, R151; 41_control_flow.md R161; D22, log entry 19). -/
def Obligations.JumpToItselfNeverEnds : Prop :=
  ∀ (s : State) (run : Nat → HostCall), Running s → 0x200 ≤ s.pc.toNat → s.pc.toNat < s.mend → s.pc.toNat % 2 = 0 →
    s.pc.toNat < 0x1000 → decodeWord s.fetchWord = .ok (.jp (low12 s.pc)) →
    (∀ k : Nat, (run k).keepsProgram = true) → EndsNever s run
end

