-- ==== Sys2Proof/Laws/Cells.lean ====
section
/-! SUPPORT. Laws of the sparse byte arrays: read after write, the canonical form, and that a canonical array is
determined by what it reads as. -/

namespace Sys2Proof.Machine

variable {dflt : Nat → Byte} {size : Nat}

/-! ## Read after write, of any list -/

theorem cellsRead_erase (m : List Host.Cell) (a b : Nat) :
    cellsRead dflt (cellsErase m a) b = if b = a then dflt b else cellsRead dflt m b := by
  induction m with
  | nil => simp [cellsErase, cellsRead]
  | cons c m ih =>
    by_cases hc : c.1 = a
    · have : cellsErase (c :: m) a = cellsErase m a := by simp [cellsErase, hc]
      rw [this, ih]
      by_cases hb : b = a
      · simp [hb]
      · simp [hb, cellsRead, hc, Ne.symm hb]
    · have : cellsErase (c :: m) a = c :: cellsErase m a := by simp [cellsErase, hc]
      rw [this]
      by_cases hb : c.1 = b
      · have hba : b ≠ a := fun h => hc (hb.trans h)
        simp [cellsRead, hb, hba]
      · simp [cellsRead, hb, ih]

theorem cellsRead_insert (m : List Host.Cell) (a b : Nat) (v : Byte) (h : ∀ c ∈ m, c.1 ≠ a) :
    cellsRead dflt (cellsInsert m a v) b = if b = a then v else cellsRead dflt m b := by
  induction m with
  | nil => simp [cellsInsert, cellsRead, eq_comm]
  | cons c m ih =>
    have hc : c.1 ≠ a := h c (by simp)
    have ih := ih fun d hd => h d (by simp [hd])
    unfold cellsInsert
    split
    · simp [cellsRead, eq_comm]
    · by_cases hb : c.1 = b
      · have hba : b ≠ a := fun e => hc (hb.trans e)
        simp [cellsRead, hb, hba]
      · simp [cellsRead, hb, ih]

/-- Reading after a write, of any list: the canonical form is not needed. -/
theorem cellsRead_write (m : List Host.Cell) (a b : Nat) (v : Byte) :
    cellsRead dflt (cellsWrite dflt m a v) b = if b = a then v else cellsRead dflt m b := by
  unfold cellsWrite
  split
  next hv => rw [cellsRead_erase]; split <;> simp_all
  next =>
    rw [cellsRead_insert _ _ _ _ (by simp [cellsErase]), cellsRead_erase]
    split <;> simp_all

/-- Keeping only some indexes: the others read as unlisted. -/
theorem cellsRead_filter (m : List Host.Cell) (keep : Nat → Bool) (b : Nat) :
    cellsRead dflt (m.filter fun c => keep c.1) b = if keep b then cellsRead dflt m b else dflt b := by
  induction m with
  | nil => simp [cellsRead]
  | cons c m ih =>
    by_cases hk : keep c.1 <;> by_cases hb : c.1 = b <;> simp_all [cellsRead]

/-! ## The canonical form -/

theorem cellsWf_nil : cellsWf dflt size [] := by simp [cellsWf]

theorem cellsWf_filter {m : List Host.Cell} (h : cellsWf dflt size m) (keep : Host.Cell → Bool) :
    cellsWf dflt size (m.filter keep) :=
  ⟨h.1.filter keep, fun c hc => h.2 c (List.mem_filter.1 hc).1⟩

theorem cellsErase_wf {m : List Host.Cell} (h : cellsWf dflt size m) (a : Nat) :
    cellsWf dflt size (cellsErase m a) := cellsWf_filter h _

theorem mem_cellsInsert {m : List Host.Cell} {a : Nat} {v : Byte} {c : Host.Cell} :
    c ∈ cellsInsert m a v ↔ c = (a, v) ∨ c ∈ m := by
  induction m with
  | nil => simp [cellsInsert]
  | cons d m ih =>
    unfold cellsInsert
    split
    · simp
    · simp [ih, or_left_comm]

theorem cellsInsert_sorted {m : List Host.Cell} (h : m.Pairwise fun c d => c.1 < d.1) (a : Nat) (v : Byte)
    (hne : ∀ c ∈ m, c.1 ≠ a) : (cellsInsert m a v).Pairwise fun c d => c.1 < d.1 := by
  induction m with
  | nil => simp [cellsInsert]
  | cons d m ih =>
    obtain ⟨hd, hm⟩ := List.pairwise_cons.1 h
    unfold cellsInsert
    split
    next hlt =>
      refine List.pairwise_cons.2 ⟨fun c hc => ?_, h⟩
      rcases List.mem_cons.1 hc with rfl | hc
      · exact hlt
      · exact Nat.lt_trans hlt (hd c hc)
    next hge =>
      refine List.pairwise_cons.2 ⟨fun c hc => ?_, ih hm fun c hc => hne c (by simp [hc])⟩
      rcases mem_cellsInsert.1 hc with rfl | hc
      · have := hne d (by simp)
        simp only
        omega
      · exact hd c hc

/-- A write keeps the canonical form. -/
theorem cellsWrite_wf {m : List Host.Cell} (h : cellsWf dflt size m) {a : Nat} (ha : a < size) (v : Byte) :
    cellsWf dflt size (cellsWrite dflt m a v) := by
  unfold cellsWrite
  split
  · exact cellsErase_wf h a
  next hv =>
    have he := cellsErase_wf h a
    refine ⟨cellsInsert_sorted he.1 a v (by simp [cellsErase]), fun c hc => ?_⟩
    rcases mem_cellsInsert.1 hc with rfl | hc
    · exact ⟨ha, hv⟩
    · exact he.2 c hc

/-- An index before every listed one is not listed. -/
theorem cellsRead_of_lt {m : List Host.Cell} {a : Nat} (h : ∀ c ∈ m, a < c.1) : cellsRead dflt m a = dflt a := by
  induction m with
  | nil => rfl
  | cons c m ih =>
    have hc := h c (by simp)
    simp only [cellsRead, Nat.ne_of_gt hc, if_false]
    exact ih fun d hd => h d (by simp [hd])

end Sys2Proof.Machine
end

