-- ==== Sys2Proof/Laws/Decode.lean ====
section
/-! SUPPORT. The fields of an encoded word, and a word from its fields. -/

namespace Sys2Proof

/-! ## Fields as numbers -/

theorem opField_toNat (w : Word) : (opField w).toNat = w.toNat / 0x1000 := by
  have := w.isLt
  simp only [opField, BitVec.extractLsb'_toNat, Nat.shiftRight_eq_div_pow]
  omega

theorem xNibble_toNat (w : Word) : (xNibble w).toNat = w.toNat / 0x100 % 0x10 := by
  simp [xNibble, Nat.shiftRight_eq_div_pow]

theorem yNibble_toNat (w : Word) : (yNibble w).toNat = w.toNat / 0x10 % 0x10 := by
  simp [yNibble, Nat.shiftRight_eq_div_pow]

theorem nField_toNat (w : Word) : (nField w).toNat = w.toNat % 0x10 := by
  simp [nField]

theorem kkField_toNat (w : Word) : (kkField w).toNat = w.toNat % 0x100 := by
  simp [kkField]

theorem nnnField_toNat (w : Word) : (nnnField w).toNat = w.toNat % 0x1000 := by
  simp [nnnField]

theorem xField_val (w : Word) : (xField w).val = w.toNat / 0x100 % 0x10 := xNibble_toNat w

theorem yField_val (w : Word) : (yField w).val = w.toNat / 0x10 % 0x10 := yNibble_toNat w

/-! ## Encoded words as numbers -/

theorem wordA_toNat {op : Nat} (h : op < 0x10) (nnn : Addr) : (wordA op nnn).toNat = op * 0x1000 + nnn.toNat := by
  have := nnn.isLt
  simp only [wordA, BitVec.toNat_ofNat]
  omega

theorem wordXK_toNat {op : Nat} (h : op < 0x10) (x : Reg) (kk : Byte) :
    (wordXK op x kk).toNat = op * 0x1000 + x.val * 0x100 + kk.toNat := by
  have := kk.isLt
  have := x.isLt
  simp only [wordXK, BitVec.toNat_ofNat]
  omega

theorem wordXYN_toNat {op : Nat} (h : op < 0x10) (x y : Reg) (n : Nat) :
    (wordXYN op x y n).toNat = op * 0x1000 + x.val * 0x100 + y.val * 0x10 + n % 0x10 := by
  have := x.isLt
  have := y.isLt
  simp only [wordXYN, BitVec.toNat_ofNat]
  omega

/-! ## The fields of encoded words -/

section Fields
variable {op : Nat} (h : op < 0x10)
include h

theorem opField_wordA (nnn : Addr) : opField (wordA op nnn) = BitVec.ofNat 4 op := by
  have := nnn.isLt
  apply BitVec.eq_of_toNat_eq
  rw [opField_toNat, wordA_toNat h, BitVec.toNat_ofNat]
  omega

theorem nnnField_wordA (nnn : Addr) : nnnField (wordA op nnn) = nnn := by
  have := nnn.isLt
  apply BitVec.eq_of_toNat_eq
  rw [nnnField_toNat, wordA_toNat h]
  omega

theorem opField_wordXK (x : Reg) (kk : Byte) : opField (wordXK op x kk) = BitVec.ofNat 4 op := by
  have := kk.isLt
  have := x.isLt
  apply BitVec.eq_of_toNat_eq
  rw [opField_toNat, wordXK_toNat h, BitVec.toNat_ofNat]
  omega

theorem xField_wordXK (x : Reg) (kk : Byte) : xField (wordXK op x kk) = x := by
  have := kk.isLt
  have := x.isLt
  apply Fin.ext
  rw [xField_val, wordXK_toNat h]
  omega

theorem kkField_wordXK (x : Reg) (kk : Byte) : kkField (wordXK op x kk) = kk := by
  have := kk.isLt
  apply BitVec.eq_of_toNat_eq
  rw [kkField_toNat, wordXK_toNat h]
  omega

theorem opField_wordXYN (x y : Reg) (n : Nat) : opField (wordXYN op x y n) = BitVec.ofNat 4 op := by
  have := x.isLt
  have := y.isLt
  apply BitVec.eq_of_toNat_eq
  rw [opField_toNat, wordXYN_toNat h, BitVec.toNat_ofNat]
  omega

theorem xField_wordXYN (x y : Reg) (n : Nat) : xField (wordXYN op x y n) = x := by
  have := x.isLt
  have := y.isLt
  apply Fin.ext
  rw [xField_val, wordXYN_toNat h]
  omega

theorem yField_wordXYN (x y : Reg) (n : Nat) : yField (wordXYN op x y n) = y := by
  have := x.isLt
  have := y.isLt
  apply Fin.ext
  rw [yField_val, wordXYN_toNat h]
  omega

theorem nField_wordXYN (x y : Reg) (n : Nat) : nField (wordXYN op x y n) = BitVec.ofNat 4 n := by
  apply BitVec.eq_of_toNat_eq
  rw [nField_toNat, wordXYN_toNat h, BitVec.toNat_ofNat]
  omega

end Fields

/-! ## A word from its fields -/

theorem eq_wordA {w : Word} {op : Nat} (h : opField w = BitVec.ofNat 4 op) (hop : op < 0x10) :
    wordA op (nnnField w) = w := by
  have h := congrArg BitVec.toNat h
  rw [opField_toNat, BitVec.toNat_ofNat] at h
  apply BitVec.eq_of_toNat_eq
  rw [wordA_toNat hop, nnnField_toNat]
  omega

theorem eq_wordXK {w : Word} {op : Nat} (h : opField w = BitVec.ofNat 4 op) (hop : op < 0x10) :
    wordXK op (xField w) (kkField w) = w := by
  have h := congrArg BitVec.toNat h
  rw [opField_toNat, BitVec.toNat_ofNat] at h
  apply BitVec.eq_of_toNat_eq
  rw [wordXK_toNat hop, xField_val, kkField_toNat]
  omega

theorem eq_wordXYN {w : Word} {op : Nat} (h : opField w = BitVec.ofNat 4 op) (hop : op < 0x10) :
    wordXYN op (xField w) (yField w) (nField w).toNat = w := by
  have h := congrArg BitVec.toNat h
  rw [opField_toNat, BitVec.toNat_ofNat] at h
  apply BitVec.eq_of_toNat_eq
  rw [wordXYN_toNat hop, xField_val, yField_val, nField_toNat]
  omega

/-! ## Masks (30_encoding.md R104) -/

/-- Mask F000 keeps the op nibble. -/
theorem and_mask_F000 (w : Word) : w &&& 0xF000#16 = (opField w).setWidth 16 <<< 12 := by
  ext i hi
  simp only [opField]
  interval_cases i <;> simp

/-- Mask F00F keeps the op nibble and n. -/
theorem and_mask_F00F (w : Word) :
    w &&& 0xF00F#16 = ((opField w).setWidth 16 <<< 12) ||| (nField w).setWidth 16 := by
  ext i hi
  simp only [opField, nField]
  interval_cases i <;> simp

/-- Mask F0FF keeps the op nibble and kk. -/
theorem and_mask_F0FF (w : Word) :
    w &&& 0xF0FF#16 = ((opField w).setWidth 16 <<< 12) ||| (kkField w).setWidth 16 := by
  ext i hi
  simp only [opField, kkField]
  interval_cases i <;> simp

end Sys2Proof
end

