-- ==== Sys2Proof/Laws/State.lean ====
section
/-! SUPPORT. What each shared update of the state leaves alone, one lemma per field per update, so that no later proof
unfolds a record update. -/

namespace Sys2Proof.Machine

/-! ## setReg -/

@[simp] theorem State.setReg_params (s : State) (r : Reg) (b : Byte) : (s.setReg r b).params = s.params := rfl
@[simp] theorem State.setReg_mem (s : State) (r : Reg) (b : Byte) : (s.setReg r b).mem = s.mem := rfl
@[simp] theorem State.setReg_i (s : State) (r : Reg) (b : Byte) : (s.setReg r b).i = s.i := rfl
@[simp] theorem State.setReg_pc (s : State) (r : Reg) (b : Byte) : (s.setReg r b).pc = s.pc := rfl
@[simp] theorem State.setReg_sp (s : State) (r : Reg) (b : Byte) : (s.setReg r b).sp = s.sp := rfl
@[simp] theorem State.setReg_dt (s : State) (r : Reg) (b : Byte) : (s.setReg r b).dt = s.dt := rfl
@[simp] theorem State.setReg_st (s : State) (r : Reg) (b : Byte) : (s.setReg r b).st = s.st := rfl
@[simp] theorem State.setReg_key (s : State) (r : Reg) (b : Byte) : (s.setReg r b).key = s.key := rfl
@[simp] theorem State.setReg_wait (s : State) (r : Reg) (b : Byte) : (s.setReg r b).wait = s.wait := rfl
@[simp] theorem State.setReg_fb (s : State) (r : Reg) (b : Byte) : (s.setReg r b).fb = s.fb := rfl
@[simp] theorem State.setReg_upd (s : State) (r : Reg) (b : Byte) : (s.setReg r b).upd = s.upd := rfl
@[simp] theorem State.setReg_mend (s : State) (r : Reg) (b : Byte) : (s.setReg r b).mend = s.mend := rfl
@[simp] theorem State.setReg_fault (s : State) (r : Reg) (b : Byte) : (s.setReg r b).fault = s.fault := rfl
@[simp] theorem State.setReg_draws (s : State) (r : Reg) (b : Byte) : (s.setReg r b).draws = s.draws := rfl

/-! ## setRegThenFlag -/

@[simp] theorem State.setRegThenFlag_params (s : State) (x : Reg) (b f : Byte) : (s.setRegThenFlag x b f).params = s.params := rfl
@[simp] theorem State.setRegThenFlag_mem (s : State) (x : Reg) (b f : Byte) : (s.setRegThenFlag x b f).mem = s.mem := rfl
@[simp] theorem State.setRegThenFlag_i (s : State) (x : Reg) (b f : Byte) : (s.setRegThenFlag x b f).i = s.i := rfl
@[simp] theorem State.setRegThenFlag_pc (s : State) (x : Reg) (b f : Byte) : (s.setRegThenFlag x b f).pc = s.pc := rfl
@[simp] theorem State.setRegThenFlag_sp (s : State) (x : Reg) (b f : Byte) : (s.setRegThenFlag x b f).sp = s.sp := rfl
@[simp] theorem State.setRegThenFlag_dt (s : State) (x : Reg) (b f : Byte) : (s.setRegThenFlag x b f).dt = s.dt := rfl
@[simp] theorem State.setRegThenFlag_st (s : State) (x : Reg) (b f : Byte) : (s.setRegThenFlag x b f).st = s.st := rfl
@[simp] theorem State.setRegThenFlag_key (s : State) (x : Reg) (b f : Byte) : (s.setRegThenFlag x b f).key = s.key := rfl
@[simp] theorem State.setRegThenFlag_wait (s : State) (x : Reg) (b f : Byte) : (s.setRegThenFlag x b f).wait = s.wait := rfl
@[simp] theorem State.setRegThenFlag_fb (s : State) (x : Reg) (b f : Byte) : (s.setRegThenFlag x b f).fb = s.fb := rfl
@[simp] theorem State.setRegThenFlag_upd (s : State) (x : Reg) (b f : Byte) : (s.setRegThenFlag x b f).upd = s.upd := rfl
@[simp] theorem State.setRegThenFlag_mend (s : State) (x : Reg) (b f : Byte) : (s.setRegThenFlag x b f).mend = s.mend := rfl
@[simp] theorem State.setRegThenFlag_fault (s : State) (x : Reg) (b f : Byte) : (s.setRegThenFlag x b f).fault = s.fault := rfl
@[simp] theorem State.setRegThenFlag_draws (s : State) (x : Reg) (b f : Byte) : (s.setRegThenFlag x b f).draws = s.draws := rfl

/-! ## writeRaw -/

@[simp] theorem State.writeRaw_params (s : State) (a : Addr) (b : Byte) : (s.writeRaw a b).params = s.params := rfl
@[simp] theorem State.writeRaw_v (s : State) (a : Addr) (b : Byte) : (s.writeRaw a b).v = s.v := rfl
@[simp] theorem State.writeRaw_i (s : State) (a : Addr) (b : Byte) : (s.writeRaw a b).i = s.i := rfl
@[simp] theorem State.writeRaw_pc (s : State) (a : Addr) (b : Byte) : (s.writeRaw a b).pc = s.pc := rfl
@[simp] theorem State.writeRaw_sp (s : State) (a : Addr) (b : Byte) : (s.writeRaw a b).sp = s.sp := rfl
@[simp] theorem State.writeRaw_dt (s : State) (a : Addr) (b : Byte) : (s.writeRaw a b).dt = s.dt := rfl
@[simp] theorem State.writeRaw_st (s : State) (a : Addr) (b : Byte) : (s.writeRaw a b).st = s.st := rfl
@[simp] theorem State.writeRaw_key (s : State) (a : Addr) (b : Byte) : (s.writeRaw a b).key = s.key := rfl
@[simp] theorem State.writeRaw_wait (s : State) (a : Addr) (b : Byte) : (s.writeRaw a b).wait = s.wait := rfl
@[simp] theorem State.writeRaw_fb (s : State) (a : Addr) (b : Byte) : (s.writeRaw a b).fb = s.fb := rfl
@[simp] theorem State.writeRaw_upd (s : State) (a : Addr) (b : Byte) : (s.writeRaw a b).upd = s.upd := rfl
@[simp] theorem State.writeRaw_mend (s : State) (a : Addr) (b : Byte) : (s.writeRaw a b).mend = s.mend := rfl
@[simp] theorem State.writeRaw_fault (s : State) (a : Addr) (b : Byte) : (s.writeRaw a b).fault = s.fault := rfl
@[simp] theorem State.writeRaw_draws (s : State) (a : Addr) (b : Byte) : (s.writeRaw a b).draws = s.draws := rfl

/-! ## writeByte -/

@[simp] theorem State.writeByte_params (s : State) (a : Addr) (b : Byte) : (s.writeByte a b).params = s.params := by unfold State.writeByte; split <;> rfl
@[simp] theorem State.writeByte_v (s : State) (a : Addr) (b : Byte) : (s.writeByte a b).v = s.v := by unfold State.writeByte; split <;> rfl
@[simp] theorem State.writeByte_i (s : State) (a : Addr) (b : Byte) : (s.writeByte a b).i = s.i := by unfold State.writeByte; split <;> rfl
@[simp] theorem State.writeByte_pc (s : State) (a : Addr) (b : Byte) : (s.writeByte a b).pc = s.pc := by unfold State.writeByte; split <;> rfl
@[simp] theorem State.writeByte_sp (s : State) (a : Addr) (b : Byte) : (s.writeByte a b).sp = s.sp := by unfold State.writeByte; split <;> rfl
@[simp] theorem State.writeByte_dt (s : State) (a : Addr) (b : Byte) : (s.writeByte a b).dt = s.dt := by unfold State.writeByte; split <;> rfl
@[simp] theorem State.writeByte_st (s : State) (a : Addr) (b : Byte) : (s.writeByte a b).st = s.st := by unfold State.writeByte; split <;> rfl
@[simp] theorem State.writeByte_key (s : State) (a : Addr) (b : Byte) : (s.writeByte a b).key = s.key := by unfold State.writeByte; split <;> rfl
@[simp] theorem State.writeByte_wait (s : State) (a : Addr) (b : Byte) : (s.writeByte a b).wait = s.wait := by unfold State.writeByte; split <;> rfl
@[simp] theorem State.writeByte_fb (s : State) (a : Addr) (b : Byte) : (s.writeByte a b).fb = s.fb := by unfold State.writeByte; split <;> rfl
@[simp] theorem State.writeByte_upd (s : State) (a : Addr) (b : Byte) : (s.writeByte a b).upd = s.upd := by unfold State.writeByte; split <;> rfl
@[simp] theorem State.writeByte_mend (s : State) (a : Addr) (b : Byte) : (s.writeByte a b).mend = s.mend := by unfold State.writeByte; split <;> rfl
@[simp] theorem State.writeByte_fault (s : State) (a : Addr) (b : Byte) : (s.writeByte a b).fault = s.fault := by unfold State.writeByte; split <;> rfl
@[simp] theorem State.writeByte_draws (s : State) (a : Addr) (b : Byte) : (s.writeByte a b).draws = s.draws := by unfold State.writeByte; split <;> rfl

/-! ## skipIf -/

@[simp] theorem State.skipIf_params (s : State) (c : Bool) : (s.skipIf c).params = s.params := by unfold State.skipIf; split <;> rfl
@[simp] theorem State.skipIf_mem (s : State) (c : Bool) : (s.skipIf c).mem = s.mem := by unfold State.skipIf; split <;> rfl
@[simp] theorem State.skipIf_v (s : State) (c : Bool) : (s.skipIf c).v = s.v := by unfold State.skipIf; split <;> rfl
@[simp] theorem State.skipIf_i (s : State) (c : Bool) : (s.skipIf c).i = s.i := by unfold State.skipIf; split <;> rfl
@[simp] theorem State.skipIf_sp (s : State) (c : Bool) : (s.skipIf c).sp = s.sp := by unfold State.skipIf; split <;> rfl
@[simp] theorem State.skipIf_dt (s : State) (c : Bool) : (s.skipIf c).dt = s.dt := by unfold State.skipIf; split <;> rfl
@[simp] theorem State.skipIf_st (s : State) (c : Bool) : (s.skipIf c).st = s.st := by unfold State.skipIf; split <;> rfl
@[simp] theorem State.skipIf_key (s : State) (c : Bool) : (s.skipIf c).key = s.key := by unfold State.skipIf; split <;> rfl
@[simp] theorem State.skipIf_wait (s : State) (c : Bool) : (s.skipIf c).wait = s.wait := by unfold State.skipIf; split <;> rfl
@[simp] theorem State.skipIf_fb (s : State) (c : Bool) : (s.skipIf c).fb = s.fb := by unfold State.skipIf; split <;> rfl
@[simp] theorem State.skipIf_upd (s : State) (c : Bool) : (s.skipIf c).upd = s.upd := by unfold State.skipIf; split <;> rfl
@[simp] theorem State.skipIf_mend (s : State) (c : Bool) : (s.skipIf c).mend = s.mend := by unfold State.skipIf; split <;> rfl
@[simp] theorem State.skipIf_fault (s : State) (c : Bool) : (s.skipIf c).fault = s.fault := by unfold State.skipIf; split <;> rfl
@[simp] theorem State.skipIf_draws (s : State) (c : Bool) : (s.skipIf c).draws = s.draws := by unfold State.skipIf; split <;> rfl

/-! ## beginStep -/

@[simp] theorem State.beginStep_params (s : State) : (s.beginStep).params = s.params := rfl
@[simp] theorem State.beginStep_mem (s : State) : (s.beginStep).mem = s.mem := rfl
@[simp] theorem State.beginStep_v (s : State) : (s.beginStep).v = s.v := rfl
@[simp] theorem State.beginStep_i (s : State) : (s.beginStep).i = s.i := rfl
@[simp] theorem State.beginStep_pc (s : State) : (s.beginStep).pc = s.pc := rfl
@[simp] theorem State.beginStep_sp (s : State) : (s.beginStep).sp = s.sp := rfl
@[simp] theorem State.beginStep_dt (s : State) : (s.beginStep).dt = s.dt := rfl
@[simp] theorem State.beginStep_st (s : State) : (s.beginStep).st = s.st := rfl
@[simp] theorem State.beginStep_key (s : State) : (s.beginStep).key = s.key := rfl
@[simp] theorem State.beginStep_wait (s : State) : (s.beginStep).wait = s.wait := rfl
@[simp] theorem State.beginStep_fb (s : State) : (s.beginStep).fb = s.fb := rfl
@[simp] theorem State.beginStep_mend (s : State) : (s.beginStep).mend = s.mend := rfl
@[simp] theorem State.beginStep_fault (s : State) : (s.beginStep).fault = s.fault := rfl
@[simp] theorem State.beginStep_draws (s : State) : (s.beginStep).draws = s.draws := rfl

/-! ## advance -/

@[simp] theorem State.advance_params (s : State) : (s.advance).params = s.params := rfl
@[simp] theorem State.advance_mem (s : State) : (s.advance).mem = s.mem := rfl
@[simp] theorem State.advance_v (s : State) : (s.advance).v = s.v := rfl
@[simp] theorem State.advance_i (s : State) : (s.advance).i = s.i := rfl
@[simp] theorem State.advance_sp (s : State) : (s.advance).sp = s.sp := rfl
@[simp] theorem State.advance_dt (s : State) : (s.advance).dt = s.dt := rfl
@[simp] theorem State.advance_st (s : State) : (s.advance).st = s.st := rfl
@[simp] theorem State.advance_key (s : State) : (s.advance).key = s.key := rfl
@[simp] theorem State.advance_wait (s : State) : (s.advance).wait = s.wait := rfl
@[simp] theorem State.advance_fb (s : State) : (s.advance).fb = s.fb := rfl
@[simp] theorem State.advance_upd (s : State) : (s.advance).upd = s.upd := rfl
@[simp] theorem State.advance_mend (s : State) : (s.advance).mend = s.mend := rfl
@[simp] theorem State.advance_fault (s : State) : (s.advance).fault = s.fault := rfl
@[simp] theorem State.advance_draws (s : State) : (s.advance).draws = s.draws := rfl

/-! ## advanceI -/

@[simp] theorem State.advanceI_params (s : State) (x : Reg) : (s.advanceI x).params = s.params := rfl
@[simp] theorem State.advanceI_mem (s : State) (x : Reg) : (s.advanceI x).mem = s.mem := rfl
@[simp] theorem State.advanceI_v (s : State) (x : Reg) : (s.advanceI x).v = s.v := rfl
@[simp] theorem State.advanceI_pc (s : State) (x : Reg) : (s.advanceI x).pc = s.pc := rfl
@[simp] theorem State.advanceI_sp (s : State) (x : Reg) : (s.advanceI x).sp = s.sp := rfl
@[simp] theorem State.advanceI_dt (s : State) (x : Reg) : (s.advanceI x).dt = s.dt := rfl
@[simp] theorem State.advanceI_st (s : State) (x : Reg) : (s.advanceI x).st = s.st := rfl
@[simp] theorem State.advanceI_key (s : State) (x : Reg) : (s.advanceI x).key = s.key := rfl
@[simp] theorem State.advanceI_wait (s : State) (x : Reg) : (s.advanceI x).wait = s.wait := rfl
@[simp] theorem State.advanceI_fb (s : State) (x : Reg) : (s.advanceI x).fb = s.fb := rfl
@[simp] theorem State.advanceI_upd (s : State) (x : Reg) : (s.advanceI x).upd = s.upd := rfl
@[simp] theorem State.advanceI_mend (s : State) (x : Reg) : (s.advanceI x).mend = s.mend := rfl
@[simp] theorem State.advanceI_fault (s : State) (x : Reg) : (s.advanceI x).fault = s.fault := rfl
@[simp] theorem State.advanceI_draws (s : State) (x : Reg) : (s.advanceI x).draws = s.draws := rfl

/-! ## storeAll -/

@[simp] theorem State.storeAll_params (s : State) (ws : List (Addr × Byte)) : (s.storeAll ws).params = s.params := by
  induction ws generalizing s with
  | nil => rfl
  | cons w ws ih => simpa [State.storeAll] using ih (s.writeByte w.1 w.2)
@[simp] theorem State.storeAll_v (s : State) (ws : List (Addr × Byte)) : (s.storeAll ws).v = s.v := by
  induction ws generalizing s with
  | nil => rfl
  | cons w ws ih => simpa [State.storeAll] using ih (s.writeByte w.1 w.2)
@[simp] theorem State.storeAll_i (s : State) (ws : List (Addr × Byte)) : (s.storeAll ws).i = s.i := by
  induction ws generalizing s with
  | nil => rfl
  | cons w ws ih => simpa [State.storeAll] using ih (s.writeByte w.1 w.2)
@[simp] theorem State.storeAll_pc (s : State) (ws : List (Addr × Byte)) : (s.storeAll ws).pc = s.pc := by
  induction ws generalizing s with
  | nil => rfl
  | cons w ws ih => simpa [State.storeAll] using ih (s.writeByte w.1 w.2)
@[simp] theorem State.storeAll_sp (s : State) (ws : List (Addr × Byte)) : (s.storeAll ws).sp = s.sp := by
  induction ws generalizing s with
  | nil => rfl
  | cons w ws ih => simpa [State.storeAll] using ih (s.writeByte w.1 w.2)
@[simp] theorem State.storeAll_dt (s : State) (ws : List (Addr × Byte)) : (s.storeAll ws).dt = s.dt := by
  induction ws generalizing s with
  | nil => rfl
  | cons w ws ih => simpa [State.storeAll] using ih (s.writeByte w.1 w.2)
@[simp] theorem State.storeAll_st (s : State) (ws : List (Addr × Byte)) : (s.storeAll ws).st = s.st := by
  induction ws generalizing s with
  | nil => rfl
  | cons w ws ih => simpa [State.storeAll] using ih (s.writeByte w.1 w.2)
@[simp] theorem State.storeAll_key (s : State) (ws : List (Addr × Byte)) : (s.storeAll ws).key = s.key := by
  induction ws generalizing s with
  | nil => rfl
  | cons w ws ih => simpa [State.storeAll] using ih (s.writeByte w.1 w.2)
@[simp] theorem State.storeAll_wait (s : State) (ws : List (Addr × Byte)) : (s.storeAll ws).wait = s.wait := by
  induction ws generalizing s with
  | nil => rfl
  | cons w ws ih => simpa [State.storeAll] using ih (s.writeByte w.1 w.2)
@[simp] theorem State.storeAll_fb (s : State) (ws : List (Addr × Byte)) : (s.storeAll ws).fb = s.fb := by
  induction ws generalizing s with
  | nil => rfl
  | cons w ws ih => simpa [State.storeAll] using ih (s.writeByte w.1 w.2)
@[simp] theorem State.storeAll_upd (s : State) (ws : List (Addr × Byte)) : (s.storeAll ws).upd = s.upd := by
  induction ws generalizing s with
  | nil => rfl
  | cons w ws ih => simpa [State.storeAll] using ih (s.writeByte w.1 w.2)
@[simp] theorem State.storeAll_mend (s : State) (ws : List (Addr × Byte)) : (s.storeAll ws).mend = s.mend := by
  induction ws generalizing s with
  | nil => rfl
  | cons w ws ih => simpa [State.storeAll] using ih (s.writeByte w.1 w.2)
@[simp] theorem State.storeAll_fault (s : State) (ws : List (Addr × Byte)) : (s.storeAll ws).fault = s.fault := by
  induction ws generalizing s with
  | nil => rfl
  | cons w ws ih => simpa [State.storeAll] using ih (s.writeByte w.1 w.2)
@[simp] theorem State.storeAll_draws (s : State) (ws : List (Addr × Byte)) : (s.storeAll ws).draws = s.draws := by
  induction ws generalizing s with
  | nil => rfl
  | cons w ws ih => simpa [State.storeAll] using ih (s.writeByte w.1 w.2)

/-! ## The parts that change -/

@[simp] theorem State.beginStep_upd (s : State) : s.beginStep.upd = false := rfl
@[simp] theorem State.advance_pc (s : State) : s.advance.pc = s.pc + 2#16 := rfl
@[simp] theorem State.advanceI_i (s : State) (x : Reg) : (s.advanceI x).i = s.i + BitVec.ofNat 16 (x.val + 1) := rfl
@[simp] theorem State.skipIf_pc (s : State) (c : Bool) : (s.skipIf c).pc = if c then s.pc + 2#16 else s.pc := by
  unfold State.skipIf; split <;> rfl

/-! ## Registers: read after write -/

theorem State.reg_setReg (s : State) (r q : Reg) (b : Byte) :
    (s.setReg r b).reg q = if q = r then b else s.reg q := by
  simp only [State.setReg, State.reg, Vector.get_eq_getElem, Vector.getElem_set]
  by_cases h : q = r
  · simp [h]
  · simp [h, Ne.symm (fun e => h (Fin.ext e) : (q : Nat) ≠ r)]

@[simp] theorem State.reg_setReg_same (s : State) (r : Reg) (b : Byte) : (s.setReg r b).reg r = b := by
  simp [State.reg_setReg]

theorem State.reg_setRegThenFlag (s : State) (x q : Reg) (b f : Byte) :
    (s.setRegThenFlag x b f).reg q = if q = vF then f else if q = x then b else s.reg q := by
  simp [State.setRegThenFlag, State.reg_setReg]

/-- A register read depends on the registers alone. -/
theorem State.reg_congr {s t : State} (h : t.v = s.v) (r : Reg) : t.reg r = s.reg r := by simp [State.reg, h]

/-- A byte of memory depends on memory and the parameters alone. -/
theorem State.readByte_congr {s t : State} (hm : t.mem = s.mem) (hp : t.params = s.params) (a : Addr) :
    t.readByte a = s.readByte a := by simp [State.readByte, hm, hp]

/-- An effective address depends on I alone. -/
theorem State.ea_congr {s t : State} (h : t.i = s.i) (k : Nat) : t.ea k = s.ea k := by simp [State.ea, h]

end Sys2Proof.Machine
end

