-- ==== Sys2Proof/Laws/Memory.lean ====
section
/-! SUPPORT. Laws of MEM and FB: read after write, the font-write policy, the canonical forms, and everything a store
of several bytes can do. -/

namespace Sys2Proof.Machine

/-! ## Bytes -/

theorem State.readByte_writeRaw (s : State) (a b : Addr) (v : Byte) :
    (s.writeRaw a v).readByte b = if b = a then v else s.readByte b := by
  simp [State.readByte, State.writeRaw, cellsRead_write, BitVec.toNat_inj]

theorem State.readByte_writeByte (s : State) (a b : Addr) (v : Byte) :
    (s.writeByte a v).readByte b = if b = a ∧ s.writable a = true then v else s.readByte b := by
  unfold State.writeByte
  split
  next h => simp [State.readByte_writeRaw, h]
  next h => simp [h]

/-- Whether a byte can be written depends on the parameters alone. -/
theorem State.writable_congr {s t : State} (h : t.params = s.params) (a : Addr) : t.writable a = s.writable a := by
  simp [State.writable, h]

@[simp] theorem State.writable_writeByte (s : State) (a b : Addr) (v : Byte) :
    (s.writeByte a v).writable b = s.writable b := State.writable_congr (by simp) b

/-- Outside the font every byte can be written. -/
theorem State.writable_of_not_inFont {s : State} {a : Addr} (h : inFont s.params a.toNat = false) :
    s.writable a = true := by simp [State.writable, h]

/-- A byte the policy protects lies in the font region. -/
theorem State.inFont_of_not_writable {s : State} {a : Addr} (h : s.writable a = false) :
    inFont s.params a.toNat = true ∧ s.params.fontWrite ≠ .writeThrough := by
  simpa [State.writable] using h

/-! ## Several bytes -/

theorem State.storeAll_nil (s : State) : s.storeAll [] = s := rfl

theorem State.storeAll_cons (s : State) (w : Addr × Byte) (ws : List (Addr × Byte)) :
    s.storeAll (w :: ws) = (s.writeByte w.1 w.2).storeAll ws := rfl

@[simp] theorem State.writable_storeAll (s : State) (ws : List (Addr × Byte)) (a : Addr) :
    (s.storeAll ws).writable a = s.writable a := State.writable_congr (by simp) a

/-- A byte that is not stored to, or that the policy protects, is unchanged. -/
theorem State.readByte_storeAll_other (s : State) (ws : List (Addr × Byte)) (b : Addr)
    (h : ∀ w ∈ ws, w.1 = b → s.writable b = false) : (s.storeAll ws).readByte b = s.readByte b := by
  induction ws generalizing s with
  | nil => rfl
  | cons w ws ih =>
    rw [State.storeAll_cons, ih _ fun w' hw' e => by simpa using h w' (by simp [hw']) e,
      State.readByte_writeByte, if_neg]
    rintro ⟨rfl, hw⟩
    simp [h w (by simp) rfl] at hw

/-- Where the addresses are distinct, a byte that can be written reads as what was stored. -/
theorem State.readByte_storeAll_mem (s : State) (ws : List (Addr × Byte)) (w : Addr × Byte)
    (hd : ws.Pairwise fun u v => u.1 ≠ v.1) (hw : w ∈ ws) (hwr : s.writable w.1 = true) :
    (s.storeAll ws).readByte w.1 = w.2 := by
  induction ws generalizing s with
  | nil => simp at hw
  | cons u ws ih =>
    obtain ⟨hu, hd⟩ := List.pairwise_cons.1 hd
    rw [State.storeAll_cons]
    rcases List.mem_cons.1 hw with rfl | hw
    · rw [State.readByte_storeAll_other _ _ _ fun w' hw' e => absurd e.symm (hu w' hw')]
      simp [State.readByte_writeByte, hwr]
    · exact ih _ hd hw (by simpa using hwr)

/-! ## The canonical form of MEM -/

theorem Memory.wf_nil (p : Params) : Memory.wf p [] := cellsWf_nil

/-- The memory of a constructed machine, the reset machine's among them, is in canonical form. -/
theorem Memory.wf_construct (p : Params) : Memory.wf (State.construct p).params (State.construct p).mem :=
  Memory.wf_nil p

theorem Memory.wf_reset : Memory.wf State.reset.params State.reset.mem := Memory.wf_construct _

theorem Memory.wf_writeRaw {s : State} (h : Memory.wf s.params s.mem) (a : Addr) (v : Byte) :
    Memory.wf s.params (s.writeRaw a v).mem := cellsWrite_wf h a.isLt v

theorem Memory.wf_writeByte {s : State} (h : Memory.wf s.params s.mem) (a : Addr) (v : Byte) :
    Memory.wf s.params (s.writeByte a v).mem := by
  unfold State.writeByte
  split
  · exact Memory.wf_writeRaw h a v
  · exact h

theorem Memory.wf_storeAll {s : State} (h : Memory.wf s.params s.mem) (ws : List (Addr × Byte)) :
    Memory.wf s.params (s.storeAll ws).mem := by
  induction ws generalizing s with
  | nil => exact h
  | cons w ws ih =>
    have := ih (s := s.writeByte w.1 w.2) (by simpa using Memory.wf_writeByte h w.1 w.2)
    simpa [State.storeAll_cons] using this

/-- Reboot's memory: the kept entries of a canonical memory. -/
theorem Memory.wf_filter {p : Params} {m : List Host.Cell} (h : Memory.wf p m) (keep : Host.Cell → Bool) :
    Memory.wf p (m.filter keep) := cellsWf_filter h keep

/-! ## FB -/

theorem pixelIndex_inj {y x y' x' : Nat} (hx : x < 64) (hx' : x' < 64) :
    pixelIndex y x = pixelIndex y' x' ↔ y = y' ∧ x = x' := by
  unfold pixelIndex; omega

theorem fbRead_write (fb : List Host.Cell) {y x y' x' : Nat} (hx : x < 64) (hx' : x' < 64) (v : Byte) :
    fbRead (fbWrite fb y x v) y' x' = if y' = y ∧ x' = x then v else fbRead fb y' x' := by
  simp [fbRead, fbWrite, cellsRead_write, pixelIndex_inj hx' hx]

theorem Frame.wf_nil : Frame.wf [] := cellsWf_nil

theorem Frame.wf_write {fb : List Host.Cell} (h : Frame.wf fb) {y x : Nat} (hy : y < 32) (hx : x < 64) (v : Byte) :
    Frame.wf (fbWrite fb y x v) := cellsWrite_wf h (by unfold pixelIndex; omega) v

end Sys2Proof.Machine
end

