-- ==== Sys2Proof/Laws/Ops.lean ====
section
/-! SUPPORT. Everything the shared operations can do: raising a fault, the font check, a checked store. -/

namespace Sys2Proof.Machine

/-- Raising a fault answers a next state, changed in FAULT alone. -/
theorem raise_eq_next {f : Fault} {s t : State} : raise f s = .next t ↔ t = { s with fault := some f } := by
  simp [raise, eq_comm]

/-- The address the font check names is in the list, in the font region, and first there; the policy is `fault`. -/
theorem State.fontHit_eq_some {s : State} {as : List Addr} {a : Addr} (h : s.fontHit as = some a) :
    s.params.fontWrite = .fault ∧ a ∈ as ∧ inFont s.params a.toNat = true := by
  unfold State.fontHit at h
  split at h
  next hp => exact ⟨hp, List.mem_of_find?_eq_some h, by simpa using List.find?_some h⟩
  next => simp at h

/-- The font check passes exactly where the policy is another, or no address is in the font region. -/
theorem State.fontHit_eq_none {s : State} {as : List Addr} :
    s.fontHit as = none ↔ (s.params.fontWrite = .fault → ∀ a ∈ as, inFont s.params a.toNat = false) := by
  unfold State.fontHit
  split
  next hp => simp [hp]
  next hp => simp [hp]

/-- A checked store either raises FontWrite and writes nothing, or stores everything and finishes. -/
theorem State.checkedStore_cases {s t : State} {ws : List (Addr × Byte)} {rest : State → State}
    (h : s.checkedStore ws rest = .next t) :
    (∃ a, s.fontHit (ws.map Prod.fst) = some a ∧ t = { s with fault := some (.fontWrite s.instrAddr a) }) ∨
    (s.fontHit (ws.map Prod.fst) = none ∧ t = rest (s.storeAll ws)) := by
  unfold State.checkedStore at h
  split at h
  next a ha => exact .inl ⟨a, ha, raise_eq_next.1 h⟩
  next hn => exact .inr ⟨hn, by simpa using h.symm⟩

theorem State.checkedStore_of_hit {s : State} {ws : List (Addr × Byte)} {rest : State → State} {a : Addr}
    (h : s.fontHit (ws.map Prod.fst) = some a) :
    s.checkedStore ws rest = .next { s with fault := some (.fontWrite s.instrAddr a) } := by
  simp [State.checkedStore, h, raise]

theorem State.checkedStore_of_clear {s : State} {ws : List (Addr × Byte)} {rest : State → State}
    (h : s.fontHit (ws.map Prod.fst) = none) : s.checkedStore ws rest = .next (rest (s.storeAll ws)) := by
  simp [State.checkedStore, h]

/-- Inside a rule PC is past the instruction, so `instrAddr` is where it was fetched from. -/
@[simp] theorem State.instrAddr_advance (s : State) : s.advance.instrAddr = s.pc := by
  simp [State.instrAddr, State.advance]

end Sys2Proof.Machine
end

