-- ==== Sys2Proof/Laws/Step.lean ====
section
/-! SUPPORT. Everything a step can do, said once: it is suspended, or the fetch faults, or the word is illegal, or the
decoded instruction runs on the advanced state. -/

namespace Sys2Proof.Machine

/-- A step is not suspended exactly where no fault is recorded and no key awaited. -/
theorem State.suspended_eq_false {s : State} : s.suspended = false ↔ s.fault = none ∧ s.wait = none := by
  simp [State.suspended, Option.isSome_eq_false_iff, Option.isNone_iff_eq_none]

/-- The fetch check passes exactly at an even PC in [0x200, MEND). -/
theorem State.fetchCheck_eq_none {s : State} :
    s.fetchCheck = none ↔ 0x200 ≤ s.pc.toNat ∧ s.pc.toNat < s.mend ∧ s.pc.toNat % 2 = 0 := by
  unfold State.fetchCheck
  split
  · simp; omega
  · split
    · simp; omega
    · simp; omega

@[simp] theorem State.fetchCheck_beginStep (s : State) : s.beginStep.fetchCheck = s.fetchCheck := rfl

@[simp] theorem State.fetchWord_beginStep (s : State) : s.beginStep.fetchWord = s.fetchWord := rfl

/-- The four ways a step can go. -/
theorem step_cases (s : State) :
    (s.suspended = true ∧ step s = .next s) ∨
    (s.suspended = false ∧ ∃ f, s.fetchCheck = some f ∧
      step s = .next { s with upd := false, fault := some f }) ∨
    (s.suspended = false ∧ s.fetchCheck = none ∧ ∃ e, decodeWord s.fetchWord = .error e ∧
      step s = .next { s with
        upd := false, pc := s.pc + 2#16, fault := some (unknownOpcodeAt s.fetchWord s.pc) }) ∨
    (s.suspended = false ∧ s.fetchCheck = none ∧ ∃ i, decodeWord s.fetchWord = .ok i ∧
      step s = exec i s.beginStep.advance) := by
  unfold step
  cases hs : s.suspended with
  | true => simp
  | false =>
    simp only [Bool.false_eq_true, if_false, State.fetchCheck_beginStep, State.fetchWord_beginStep]
    cases hf : s.fetchCheck with
    | some f => exact .inr (.inl ⟨trivial, f, rfl, rfl⟩)
    | none =>
      cases hd : decodeWord s.fetchWord with
      | error e => exact .inr (.inr (.inl ⟨trivial, rfl, e, rfl, rfl⟩))
      | ok i => exact .inr (.inr (.inr ⟨trivial, rfl, i, rfl, rfl⟩))

end Sys2Proof.Machine
end

