-- ==== Sys2Proof/Laws/Frames.lean ====
section
/-! SUPPORT. How frames combine, and the loops of the model said once: the register loads of Fx65, the copy of
load, and the calls of a run. -/

namespace Sys2Proof.Machine

theorem Unchanged.rfl' {l : List Part} (s : State) : Unchanged l s s := by
  intro p _
  cases p <;> simp [Part.same]

theorem Unchanged.then {l : List Part} {s t u : State} (h : Unchanged l s t) (h' : Unchanged l t u) :
    Unchanged l s u := by
  intro p hp
  have a := h p hp
  have b := h' p hp
  cases p <;> simp_all [Part.same]

/-- A frame with fewer exceptions says more. -/
theorem Unchanged.widen {l l' : List Part} {s t : State} (h : Unchanged l s t) (hl : ∀ p ∈ l, p ∈ l') :
    Unchanged l' s t := fun p hp => h p fun hm => hp (hl p hm)

/-- Recording a fault changes FAULT alone. -/
theorem Unchanged.of_fault (s : State) (f : Option Fault) : Unchanged [.fault] s { s with fault := f } := by
  intro p hp
  cases p <;> simp_all [Part.same] <;> intros <;> rfl

/-- The loads of Fx65 change the V registers alone. -/
theorem State.loadRegs_eq (s : State) (x : Reg) : s.loadRegs x = { s with v := (s.loadRegs x).v } := by
  unfold State.loadRegs
  generalize offsetsUpTo x = ks
  suffices h : ∀ t : State, (∃ v, t = { s with v := v }) →
      ∃ v, ks.foldl (fun t k => t.setReg (rangeReg k) (s.readByte (s.ea k))) t = { s with v := v } by
    obtain ⟨v, hv⟩ := h s ⟨s.v, rfl⟩
    rw [hv]
  induction ks with
  | nil => exact fun t ht => ht
  | cons k ks ih =>
    rintro _ ⟨v, rfl⟩
    exact ih _ ⟨_, rfl⟩

/-- load's copy changes MEM alone. -/
theorem State.copyIn_eq (s : State) (base : Nat) (bytes : List Byte) :
    s.copyIn base bytes = { s with mem := (s.copyIn base bytes).mem } := by
  induction bytes generalizing s base with
  | nil => rfl
  | cons b bs ih =>
    unfold State.copyIn
    conv_lhs => rw [ih]
    rfl

theorem Memory.wf_copyIn {s : State} (h : Memory.wf s.params s.mem) (base : Nat) (bytes : List Byte) :
    Memory.wf s.params (s.copyIn base bytes).mem := by
  induction bytes generalizing s base with
  | nil => exact h
  | cons b bs ih =>
    have := ih (s := s.writeRaw (BitVec.ofNat 12 base) b) (by simpa using Memory.wf_writeRaw h _ b) (base + 1)
    simpa [State.copyIn] using this

@[simp] theorem State.afterCalls_zero (s : State) (run : Nat → HostCall) : s.afterCalls run 0 = s := rfl

@[simp] theorem State.afterCalls_succ (s : State) (run : Nat → HostCall) (k : Nat) :
    s.afterCalls run (k + 1) = ((s.afterCalls run k).call (run k)).1 := rfl

/-- What holds at the start of a run and is kept by each of its calls holds throughout it. -/
theorem State.afterCalls_keeps {P : State → Prop} {s : State} {run : Nat → HostCall} (start : P s)
    (kept : ∀ k t, P t → P (t.call (run k)).1) (k : Nat) : P (s.afterCalls run k) := by
  induction k with
  | zero => exact start
  | succ k ih => exact kept k _ ih

theorem Memory.wf_reboot {s : State} (h : Memory.wf s.params s.mem) : Memory.wf s.reboot.params s.reboot.mem :=
  Memory.wf_filter h _

end Sys2Proof.Machine
end

