-- ==== Sys2Proof/Laws/PerInstr.lean ====
section
/-! SUPPORT. The statements made for every instruction, one lemma per constructor. RowMatch: the word `encode` writes
for an instruction is selected by that instruction's own row of the opcode map (30_encoding.md R104). -/

namespace Sys2Proof.Laws

/-- The row of `i`'s mnemonic is in the map and selects `i`'s word. -/
def RowMatch.Statement (i : Instr) : Prop :=
  ∃ r ∈ opcodeRows, r.mnemonic = i.mnemonic ∧ r.selects (encode i) = true

/-! One lemma per mask: what it takes for a row to select an encoded word. -/

theorem selects_F000 {m : String} {w pattern : Word} {op : Nibble} (h : opField w = op)
    (hp : op.setWidth 16 <<< 12 = pattern) : OpcodeRow.selects ⟨m, 0xF000#16, pattern⟩ w = true := by
  simp [OpcodeRow.selects, and_mask_F000, h, hp]

theorem selects_F00F {m : String} {w pattern : Word} {op n : Nibble} (h : opField w = op) (hn : nField w = n)
    (hp : (op.setWidth 16 <<< 12) ||| n.setWidth 16 = pattern) :
    OpcodeRow.selects ⟨m, 0xF00F#16, pattern⟩ w = true := by
  simp [OpcodeRow.selects, and_mask_F00F, h, hn, hp]

theorem selects_F0FF {m : String} {w pattern : Word} {op : Nibble} {kk : Byte} (h : opField w = op)
    (hk : kkField w = kk) (hp : (op.setWidth 16 <<< 12) ||| kk.setWidth 16 = pattern) :
    OpcodeRow.selects ⟨m, 0xF0FF#16, pattern⟩ w = true := by
  simp [OpcodeRow.selects, and_mask_F0FF, h, hk, hp]

theorem RowMatch.cls : RowMatch.Statement (.cls) :=
  ⟨⟨"CLS", 0xFFFF#16, 0x00E0#16⟩, by simp [opcodeRows, opcodeRows0to7], rfl,
    by decide⟩

theorem RowMatch.ret : RowMatch.Statement (.ret) :=
  ⟨⟨"RET", 0xFFFF#16, 0x00EE#16⟩, by simp [opcodeRows, opcodeRows0to7], rfl,
    by decide⟩

theorem RowMatch.jp (nnn : Addr) : RowMatch.Statement (.jp nnn) :=
  ⟨⟨"JP_nnn", 0xF000#16, 0x1000#16⟩, by simp [opcodeRows, opcodeRows0to7], rfl,
    selects_F000 (opField_wordA (by decide) _) rfl⟩

theorem RowMatch.call (nnn : Addr) : RowMatch.Statement (.call nnn) :=
  ⟨⟨"CALL_nnn", 0xF000#16, 0x2000#16⟩, by simp [opcodeRows, opcodeRows0to7], rfl,
    selects_F000 (opField_wordA (by decide) _) rfl⟩

theorem RowMatch.seImm (x : Reg) (kk : Byte) : RowMatch.Statement (.seImm x kk) :=
  ⟨⟨"SE_Vx__kk", 0xF000#16, 0x3000#16⟩, by simp [opcodeRows, opcodeRows0to7], rfl,
    selects_F000 (opField_wordXK (by decide) _ _) rfl⟩

theorem RowMatch.sneImm (x : Reg) (kk : Byte) : RowMatch.Statement (.sneImm x kk) :=
  ⟨⟨"SNE_Vx__kk", 0xF000#16, 0x4000#16⟩, by simp [opcodeRows, opcodeRows0to7], rfl,
    selects_F000 (opField_wordXK (by decide) _ _) rfl⟩

theorem RowMatch.seReg (x y : Reg) : RowMatch.Statement (.seReg x y) :=
  ⟨⟨"SE_Vx__Vy", 0xF00F#16, 0x5000#16⟩, by simp [opcodeRows, opcodeRows0to7], rfl,
    selects_F00F (opField_wordXYN (by decide) _ _ _) (nField_wordXYN (by decide) _ _ _) rfl⟩

theorem RowMatch.ldImm (x : Reg) (kk : Byte) : RowMatch.Statement (.ldImm x kk) :=
  ⟨⟨"LD_Vx__kk", 0xF000#16, 0x6000#16⟩, by simp [opcodeRows, opcodeRows0to7], rfl,
    selects_F000 (opField_wordXK (by decide) _ _) rfl⟩

theorem RowMatch.addImm (x : Reg) (kk : Byte) : RowMatch.Statement (.addImm x kk) :=
  ⟨⟨"ADD_Vx__kk", 0xF000#16, 0x7000#16⟩, by simp [opcodeRows, opcodeRows0to7], rfl,
    selects_F000 (opField_wordXK (by decide) _ _) rfl⟩

theorem RowMatch.ldReg (x y : Reg) : RowMatch.Statement (.ldReg x y) :=
  ⟨⟨"LD_Vx__Vy", 0xF00F#16, 0x8000#16⟩, by simp [opcodeRows, opcodeRows8toD], rfl,
    selects_F00F (opField_wordXYN (by decide) _ _ _) (nField_wordXYN (by decide) _ _ _) rfl⟩

theorem RowMatch.orReg (x y : Reg) : RowMatch.Statement (.orReg x y) :=
  ⟨⟨"OR_Vx__Vy", 0xF00F#16, 0x8001#16⟩, by simp [opcodeRows, opcodeRows8toD], rfl,
    selects_F00F (opField_wordXYN (by decide) _ _ _) (nField_wordXYN (by decide) _ _ _) rfl⟩

theorem RowMatch.andReg (x y : Reg) : RowMatch.Statement (.andReg x y) :=
  ⟨⟨"AND_Vx__Vy", 0xF00F#16, 0x8002#16⟩, by simp [opcodeRows, opcodeRows8toD], rfl,
    selects_F00F (opField_wordXYN (by decide) _ _ _) (nField_wordXYN (by decide) _ _ _) rfl⟩

theorem RowMatch.xorReg (x y : Reg) : RowMatch.Statement (.xorReg x y) :=
  ⟨⟨"XOR_Vx__Vy", 0xF00F#16, 0x8003#16⟩, by simp [opcodeRows, opcodeRows8toD], rfl,
    selects_F00F (opField_wordXYN (by decide) _ _ _) (nField_wordXYN (by decide) _ _ _) rfl⟩

theorem RowMatch.addReg (x y : Reg) : RowMatch.Statement (.addReg x y) :=
  ⟨⟨"ADD_Vx__Vy", 0xF00F#16, 0x8004#16⟩, by simp [opcodeRows, opcodeRows8toD], rfl,
    selects_F00F (opField_wordXYN (by decide) _ _ _) (nField_wordXYN (by decide) _ _ _) rfl⟩

theorem RowMatch.subReg (x y : Reg) : RowMatch.Statement (.subReg x y) :=
  ⟨⟨"SUB_Vx__Vy", 0xF00F#16, 0x8005#16⟩, by simp [opcodeRows, opcodeRows8toD], rfl,
    selects_F00F (opField_wordXYN (by decide) _ _ _) (nField_wordXYN (by decide) _ _ _) rfl⟩

theorem RowMatch.shr (x y : Reg) : RowMatch.Statement (.shr x y) :=
  ⟨⟨"SHR_Vx____Vy", 0xF00F#16, 0x8006#16⟩, by simp [opcodeRows, opcodeRows8toD], rfl,
    selects_F00F (opField_wordXYN (by decide) _ _ _) (nField_wordXYN (by decide) _ _ _) rfl⟩

theorem RowMatch.subnReg (x y : Reg) : RowMatch.Statement (.subnReg x y) :=
  ⟨⟨"SUBN_Vx__Vy", 0xF00F#16, 0x8007#16⟩, by simp [opcodeRows, opcodeRows8toD], rfl,
    selects_F00F (opField_wordXYN (by decide) _ _ _) (nField_wordXYN (by decide) _ _ _) rfl⟩

theorem RowMatch.shl (x y : Reg) : RowMatch.Statement (.shl x y) :=
  ⟨⟨"SHL_Vx____Vy", 0xF00F#16, 0x800E#16⟩, by simp [opcodeRows, opcodeRows8toD], rfl,
    selects_F00F (opField_wordXYN (by decide) _ _ _) (nField_wordXYN (by decide) _ _ _) rfl⟩

theorem RowMatch.sneReg (x y : Reg) : RowMatch.Statement (.sneReg x y) :=
  ⟨⟨"SNE_Vx__Vy", 0xF00F#16, 0x9000#16⟩, by simp [opcodeRows, opcodeRows8toD], rfl,
    selects_F00F (opField_wordXYN (by decide) _ _ _) (nField_wordXYN (by decide) _ _ _) rfl⟩

theorem RowMatch.ldI (nnn : Addr) : RowMatch.Statement (.ldI nnn) :=
  ⟨⟨"LD_I__nnn", 0xF000#16, 0xA000#16⟩, by simp [opcodeRows, opcodeRows8toD], rfl,
    selects_F000 (opField_wordA (by decide) _) rfl⟩

theorem RowMatch.jpV0 (nnn : Addr) : RowMatch.Statement (.jpV0 nnn) :=
  ⟨⟨"JP_V0__nnn", 0xF000#16, 0xB000#16⟩, by simp [opcodeRows, opcodeRows8toD], rfl,
    selects_F000 (opField_wordA (by decide) _) rfl⟩

theorem RowMatch.rnd (x : Reg) (kk : Byte) : RowMatch.Statement (.rnd x kk) :=
  ⟨⟨"RND_Vx__kk", 0xF000#16, 0xC000#16⟩, by simp [opcodeRows, opcodeRows8toD], rfl,
    selects_F000 (opField_wordXK (by decide) _ _) rfl⟩

theorem RowMatch.drw (x y : Reg) (n : Nat) : RowMatch.Statement (.drw x y n) :=
  ⟨⟨"DRW_Vx__Vy__n", 0xF000#16, 0xD000#16⟩, by simp [opcodeRows, opcodeRows8toD], rfl,
    selects_F000 (opField_wordXYN (by decide) _ _ _) rfl⟩

theorem RowMatch.skp (x : Reg) : RowMatch.Statement (.skp x) :=
  ⟨⟨"SKP_Vx", 0xF0FF#16, 0xE09E#16⟩, by simp [opcodeRows, opcodeRowsEtoF], rfl,
    selects_F0FF (opField_wordXK (by decide) _ _) (kkField_wordXK (by decide) _ _) rfl⟩

theorem RowMatch.sknp (x : Reg) : RowMatch.Statement (.sknp x) :=
  ⟨⟨"SKNP_Vx", 0xF0FF#16, 0xE0A1#16⟩, by simp [opcodeRows, opcodeRowsEtoF], rfl,
    selects_F0FF (opField_wordXK (by decide) _ _) (kkField_wordXK (by decide) _ _) rfl⟩

theorem RowMatch.ldVxDT (x : Reg) : RowMatch.Statement (.ldVxDT x) :=
  ⟨⟨"LD_Vx__DT", 0xF0FF#16, 0xF007#16⟩, by simp [opcodeRows, opcodeRowsEtoF], rfl,
    selects_F0FF (opField_wordXK (by decide) _ _) (kkField_wordXK (by decide) _ _) rfl⟩

theorem RowMatch.ldVxK (x : Reg) : RowMatch.Statement (.ldVxK x) :=
  ⟨⟨"LD_Vx__K", 0xF0FF#16, 0xF00A#16⟩, by simp [opcodeRows, opcodeRowsEtoF], rfl,
    selects_F0FF (opField_wordXK (by decide) _ _) (kkField_wordXK (by decide) _ _) rfl⟩

theorem RowMatch.ldDTVx (x : Reg) : RowMatch.Statement (.ldDTVx x) :=
  ⟨⟨"LD_DT__Vx", 0xF0FF#16, 0xF015#16⟩, by simp [opcodeRows, opcodeRowsEtoF], rfl,
    selects_F0FF (opField_wordXK (by decide) _ _) (kkField_wordXK (by decide) _ _) rfl⟩

theorem RowMatch.ldSTVx (x : Reg) : RowMatch.Statement (.ldSTVx x) :=
  ⟨⟨"LD_ST__Vx", 0xF0FF#16, 0xF018#16⟩, by simp [opcodeRows, opcodeRowsEtoF], rfl,
    selects_F0FF (opField_wordXK (by decide) _ _) (kkField_wordXK (by decide) _ _) rfl⟩

theorem RowMatch.addI (x : Reg) : RowMatch.Statement (.addI x) :=
  ⟨⟨"ADD_I__Vx", 0xF0FF#16, 0xF01E#16⟩, by simp [opcodeRows, opcodeRowsEtoF], rfl,
    selects_F0FF (opField_wordXK (by decide) _ _) (kkField_wordXK (by decide) _ _) rfl⟩

theorem RowMatch.ldF (x : Reg) : RowMatch.Statement (.ldF x) :=
  ⟨⟨"LD_F__Vx", 0xF0FF#16, 0xF029#16⟩, by simp [opcodeRows, opcodeRowsEtoF], rfl,
    selects_F0FF (opField_wordXK (by decide) _ _) (kkField_wordXK (by decide) _ _) rfl⟩

theorem RowMatch.ldB (x : Reg) : RowMatch.Statement (.ldB x) :=
  ⟨⟨"LD_B__Vx", 0xF0FF#16, 0xF033#16⟩, by simp [opcodeRows, opcodeRowsEtoF], rfl,
    selects_F0FF (opField_wordXK (by decide) _ _) (kkField_wordXK (by decide) _ _) rfl⟩

theorem RowMatch.ldMemVx (x : Reg) : RowMatch.Statement (.ldMemVx x) :=
  ⟨⟨"LD__I___Vx", 0xF0FF#16, 0xF055#16⟩, by simp [opcodeRows, opcodeRowsEtoF], rfl,
    selects_F0FF (opField_wordXK (by decide) _ _) (kkField_wordXK (by decide) _ _) rfl⟩

theorem RowMatch.ldVxMem (x : Reg) : RowMatch.Statement (.ldVxMem x) :=
  ⟨⟨"LD_Vx___I", 0xF0FF#16, 0xF065#16⟩, by simp [opcodeRows, opcodeRowsEtoF], rfl,
    selects_F0FF (opField_wordXK (by decide) _ _) (kkField_wordXK (by decide) _ _) rfl⟩

end Sys2Proof.Laws
end

