-- ==== Sys2Proof/Tests/Slice0.lean ====
section
/-! SUPPORT. Tests. The expected results are the vectors W1 to W10 and T1 to T104 of 95_test_vectors.md (named in each
docstring) or are worked out by hand from the rule named. At the end, one witness for the hypotheses of every
obligation that has some. -/

namespace Sys2Proof.Tests

open Sys2Proof Sys2Proof.Machine

/-! ## Helpers -/

/-- A register file with the listed registers set and every other 0. -/
def regs (l : List (Reg × Byte)) : Vector Byte 16 :=
  l.foldl (fun v c => v.set c.1 c.2) (Vector.replicate 16 0#8)

/-- A keypad with the listed keys down. -/
def keys (l : List Key) : Vector Bool 16 := 
  l.foldl (fun v k => v.set k.val true) (Vector.replicate 16 false)

/-- A constructed machine with parameters `p`. -/
def withParams (p : Params) : State := State.construct p

/-- STRICT_STACK = true. -/
def strict : Params := { defaultParams with strictStack := true }

/-- FONT_BASE = 0x0FF. -/
def font0FF : Params := { defaultParams with fontBase := .at0FF }

/-- `s` with MEND 0x210 and the word `w` at its PC, 0x200 in these tests. -/
def placed (w : Nat) (s : State) : State := ({ s with mend := 0x210 }).withFetchWord 16 w

/-- The state a step of `s` answers. -/
def after (s : State) : State := s.callStep.1

/-- The state after one step that runs the word `w` from `s`. -/
def run (w : Nat) (s : State) : State := after (placed w s)

/-- The bytes of MEM from `a` on. -/
def bytesAt (s : State) (a n : Nat) : List Byte := (List.range n).map fun k => s.readByte (BitVec.ofNat 12 (a + k))

/-! ## Well-formedness -/

/-- A row count of 16 does not fit its field; every other operand is bounded by its type (R102). -/
theorem test_drw_of_sixteen_rows_is_ill_formed : ¬ WellFormed (.drw 0 0 16) := by decide
theorem test_drw_of_fifteen_rows_is_well_formed : WellFormed (.drw 15 15 15) := by decide

/-! ## Decoding: words written out from R104's map -/

theorem test_decode_op0_to_4 :
    decodeWord 0x00E0#16 = .ok .cls ∧ decodeWord 0x00EE#16 = .ok .ret ∧
    decodeWord 0x1FED#16 = .ok (.jp 0xFED#12) ∧ decodeWord 0x2208#16 = .ok (.call 0x208#12) ∧
    decodeWord 0x3A10#16 = .ok (.seImm 10 0x10#8) ∧ decodeWord 0x4BFE#16 = .ok (.sneImm 11 0xFE#8) := by decide

theorem test_decode_op5_to_7 :
    decodeWord 0x5120#16 = .ok (.seReg 1 2) ∧ decodeWord 0x6F42#16 = .ok (.ldImm 15 0x42#8) ∧
    decodeWord 0x7103#16 = .ok (.addImm 1 0x03#8) := by decide

theorem test_decode_op8 :
    decodeWord 0x8120#16 = .ok (.ldReg 1 2) ∧ decodeWord 0x8121#16 = .ok (.orReg 1 2) ∧
    decodeWord 0x8122#16 = .ok (.andReg 1 2) ∧ decodeWord 0x8123#16 = .ok (.xorReg 1 2) ∧
    decodeWord 0x8124#16 = .ok (.addReg 1 2) ∧ decodeWord 0x8125#16 = .ok (.subReg 1 2) ∧
    decodeWord 0x8126#16 = .ok (.shr 1 2) ∧ decodeWord 0x8127#16 = .ok (.subnReg 1 2) ∧
    decodeWord 0x812E#16 = .ok (.shl 1 2) := by decide

theorem test_decode_op9_to_D :
    decodeWord 0x9120#16 = .ok (.sneReg 1 2) ∧ decodeWord 0xAFFF#16 = .ok (.ldI 0xFFF#12) ∧
    decodeWord 0xB201#16 = .ok (.jpV0 0x201#12) ∧ decodeWord 0xC30F#16 = .ok (.rnd 3 0x0F#8) ∧
    decodeWord 0xD123#16 = .ok (.drw 1 2 3) := by decide

theorem test_decode_opE_and_F :
    decodeWord 0xE59E#16 = .ok (.skp 5) ∧ decodeWord 0xE5A1#16 = .ok (.sknp 5) ∧
    decodeWord 0xF507#16 = .ok (.ldVxDT 5) ∧ decodeWord 0xFF0A#16 = .ok (.ldVxK 15) ∧
    decodeWord 0xF515#16 = .ok (.ldDTVx 5) ∧ decodeWord 0xF518#16 = .ok (.ldSTVx 5) ∧
    decodeWord 0xF01E#16 = .ok (.addI 0) ∧ decodeWord 0xF029#16 = .ok (.ldF 0) ∧
    decodeWord 0xFA33#16 = .ok (.ldB 10) ∧ decodeWord 0xF255#16 = .ok (.ldMemVx 2) ∧
    decodeWord 0xF265#16 = .ok (.ldVxMem 2) := by decide

/-- T1: the fields of 0xD123. -/
theorem test_T1_fields :
    opField 0xD123#16 = 0xD#4 ∧ xField 0xD123#16 = 1 ∧ yField 0xD123#16 = 2 ∧ nField 0xD123#16 = 3#4 ∧
    kkField 0xD123#16 = 0x23#8 ∧ nnnField 0xD123#16 = 0x123#12 := by decide

/-- The decoder rejects the word, with the word itself. -/
abbrev Illegal (w : Word) : Prop := decodeWord w = .error (.unknownOpcode w)

/-- The words of T6. -/
theorem test_T6_illegal_words :
    Illegal 0x0000#16 ∧ Illegal 0x0123#16 ∧ Illegal 0x00E1#16 ∧ Illegal 0x00FF#16 := by decide

/-- The words of T7. -/
theorem test_T7_illegal_words :
    Illegal 0x5121#16 ∧ Illegal 0x8008#16 ∧ Illegal 0x800D#16 ∧ Illegal 0x800F#16 ∧ Illegal 0x9121#16 ∧
    Illegal 0xE000#16 ∧ Illegal 0xE09F#16 ∧ Illegal 0xE0A2#16 ∧ Illegal 0xF000#16 ∧ Illegal 0xF0FF#16 ∧
    Illegal 0xF056#16 := by decide

/-- A word is stored high byte first; one byte alone is no word (R100). -/
theorem test_decode_bytes :
    decode [0x60#8, 0x05#8, 0x12#8] = .ok (.ldImm 0 5#8, [0x12#8]) ∧ decode [0x60#8] = .error .truncated ∧
    decodeTableWord 16 0x6005 = some (.ldImm 0 5#8) := by decide

/-! ## The step -/

/-- T2. -/
theorem test_T2_step_after_construct :
    step State.reset = .next { State.reset with fault := some (.fetchOutOfRange 0x200#16) } ∧
    State.reset.finished = true := ⟨rfl, by decide⟩

/-- T3, T4. -/
theorem test_T3_T4_fetch_check :
    (after { State.reset with pc := 0x201#16, mend := 0x210 }).fault = some (.fetchMisaligned 0x201#16) ∧
    (after { State.reset with pc := 0x1FF#16, mend := 0x210 }).fault = some (.fetchOutOfRange 0x1FF#16) := by decide

/-- T5: the word at the last, lone byte of a ROM is fetched with the byte after it. -/
theorem test_T5_odd_length_rom :
    let s := State.reset.calls [.load [0x60#8, 0x05#8, 0x12#8], .step, .step]
    s.reg 0 = 5#8 ∧ s.pc = 0x200#16 ∧ s.fault = none ∧ s.mend = 0x203 := by decide

/-- T6: nothing but PC and FAULT (and UPD) changes. -/
theorem test_T6_unknown_opcode :
    run 0x0123 State.reset = { placed 0x0123 State.reset with
      pc := 0x202#16, fault := some (.unknownOpcode 0x0123#16 0#4 1#4 2#4 3#4 0x200#16) } := by decide

/-- T8. -/
theorem test_T8_halted :
    let s := { run 0x0000 State.reset with dt := 3#8 }
    s.call .step = (s, .fault (.unknownOpcode 0#16 0#4 0#4 0#4 0#4 0x200#16)) ∧
    s.call .tickTimers = (s, .tone false) ∧ s.call (.deliverKey 1) = (s, .done) := by decide

/-- UPD does not outlive the next step (R132). -/
theorem test_upd_is_cleared : (run 0x6005 { State.reset with upd := true }).upd = false := by decide

/-! ## Control flow -/

/-- T10. -/
theorem test_T10_jp : (run 0x1204 State.reset).pc = 0x204#16 := by decide

/-- T11, T12: no mask, no check at the jump. -/
theorem test_T11_T12_jp_v0 :
    (run 0xBFFF { State.reset with v := regs [(0, 0xFF#8), (15, 9#8)] }).pc = 0x10FE#16 ∧
    (after (run 0xBFFF { State.reset with v := regs [(0, 0xFF#8)] })).fault = some (.fetchOutOfRange 0x10FE#16) ∧
    (after (run 0xB201 State.reset)).fault = some (.fetchMisaligned 0x201#16) := by decide

/-- W8: CALL, then RET. -/
theorem test_W8_call_and_return :
    let s := run 0x2208 { State.reset with pc := 0x202#16 }
    bytesAt s 0 2 = [0x02#8, 0x04#8] ∧ s.sp = 2#8 ∧ s.pc = 0x208#16 ∧
    (run 0x00EE s).pc = 0x204#16 ∧ (run 0x00EE s).sp = 0#8 ∧ bytesAt (run 0x00EE s) 0 2 = [0x02#8, 0x04#8] := by
  decide

/-- T13: SP wraps. -/
theorem test_T13_call_wraps :
    let s := run 0x2300 { State.reset with sp := 0xFE#8 }
    bytesAt s 0xFE 2 = [0x02#8, 0x02#8] ∧ s.sp = 0#8 ∧ s.pc = 0x300#16 := by decide

/-- T14, T15: the two faults of CALL. -/
theorem test_T14_T15_call_faults :
    let a := { withParams strict with sp := 0xFE#8 }
    let b := { withParams font0FF with sp := 0xFE#8 }
    run 0x2300 a = { placed 0x2300 a with pc := 0x202#16, fault := some (.stackOverflow 0x200#16 0xFE#8) } ∧
    run 0x2300 b = { placed 0x2300 b with pc := 0x202#16, fault := some (.fontWrite 0x200#16 0x0FF#12) } := by decide

/-- T16, T17: an underflow pops whatever is there. -/
theorem test_T16_T17_ret_wraps :
    (run 0x00EE State.reset).sp = 0xFE#8 ∧ (run 0x00EE State.reset).pc = 0#16 ∧
    (run 0x00EE (withParams font0FF)).pc = 0x00F0#16 := by decide

/-- T18. -/
theorem test_T18_ret_underflow :
    (run 0x00EE (withParams strict)).fault = some (.stackUnderflow 0x200#16 0#8) ∧
    (run 0x00EE (withParams strict)).sp = 0#8 ∧ (run 0x00EE (withParams strict)).pc = 0x202#16 := by decide

/-- T19, T20, T21. -/
theorem test_T19_T20_T21_immediate_skips :
    (run 0x3310 { State.reset with v := regs [(3, 0x10#8)] }).pc = 0x204#16 ∧
    (run 0x3310 { State.reset with v := regs [(3, 0x11#8)] }).pc = 0x202#16 ∧
    (run 0x4310 { State.reset with v := regs [(3, 0x11#8)] }).pc = 0x204#16 ∧
    (run 0x4310 { State.reset with v := regs [(3, 0x10#8)] }).pc = 0x202#16 := by decide

/-- T22, T23, T24. -/
theorem test_T22_T23_T24_register_skips :
    (run 0x5120 { State.reset with v := regs [(1, 7#8), (2, 8#8)] }).pc = 0x202#16 ∧
    (run 0x9120 { State.reset with v := regs [(1, 7#8), (2, 7#8)] }).pc = 0x202#16 ∧
    (run 0x9120 { State.reset with v := regs [(1, 7#8), (2, 8#8)] }).pc = 0x204#16 ∧
    (run 0x5110 { State.reset with v := regs [(1, 7#8)] }).pc = 0x204#16 := by decide

/-! ## ALU -/

/-- T30, and 8xy0. -/
theorem test_T30_loads :
    (run 0x6F42 State.reset).v = regs [(15, 0x42#8)] ∧
    (run 0x8120 { State.reset with v := regs [(2, 9#8)] }).v = regs [(1, 9#8), (2, 9#8)] := by decide

/-- T31, W1: no flag. -/
theorem test_T31_add_immediate :
    (run 0x7103 { State.reset with v := regs [(1, 0xFE#8), (15, 0x77#8)] }).v = regs [(1, 1#8), (15, 0x77#8)] ∧
    (run 0x71FF { State.reset with v := regs [(1, 1#8), (15, 0x5A#8)] }).v = regs [(15, 0x5A#8)] := by decide

/-- T32: VF is not touched. -/
theorem test_T32_logic :
    let s := { State.reset with v := regs [(1, 0x0F#8), (2, 0xF0#8), (15, 0x55#8)] }
    (run 0x8121 s).v = regs [(1, 0xFF#8), (2, 0xF0#8), (15, 0x55#8)] ∧
    (run 0x8122 s).v = regs [(2, 0xF0#8), (15, 0x55#8)] ∧
    (run 0x8123 s).v = regs [(1, 0xFF#8), (2, 0xF0#8), (15, 0x55#8)] := by decide

/-- W2, T34: the carry, and VF as the destination. -/
theorem test_W2_T34_add :
    (run 0x8124 { State.reset with v := regs [(1, 0xFF#8), (2, 1#8)] }).v = regs [(2, 1#8), (15, 1#8)] ∧
    (run 0x8124 { State.reset with v := regs [(1, 1#8), (2, 1#8), (15, 7#8)] }).v = regs [(1, 2#8), (2, 1#8)] ∧
    (run 0x8F14 { State.reset with v := regs [(1, 1#8), (15, 0xFF#8)] }).v = regs [(1, 1#8), (15, 1#8)] := by decide

/-- T33: source and destination the same. -/
theorem test_T33_add_to_itself :
    (run 0x8114 { State.reset with v := regs [(1, 0x80#8)] }).v = regs [(15, 1#8)] := by decide

/-- W3, T36. -/
theorem test_W3_T36_sub :
    (run 0x8125 { State.reset with v := regs [(1, 5#8), (2, 3#8)] }).v = regs [(1, 2#8), (2, 3#8), (15, 1#8)] ∧
    (run 0x8125 { State.reset with v := regs [(1, 3#8), (2, 5#8)] }).v = regs [(1, 0xFE#8), (2, 5#8)] ∧
    (run 0x8115 { State.reset with v := regs [(1, 0x42#8)] }).v = regs [(15, 1#8)] := by decide

/-- T35: VF as the destination. -/
theorem test_T35_sub_into_VF :
    (run 0x8F15 { State.reset with v := regs [(1, 3#8), (15, 5#8)] }).v = regs [(1, 3#8), (15, 1#8)] := by decide

/-- T37, T38. -/
theorem test_T37_T38_subn :
    (run 0x8127 { State.reset with v := regs [(1, 3#8), (2, 5#8)] }).v = regs [(1, 2#8), (2, 5#8), (15, 1#8)] ∧
    (run 0x8F27 { State.reset with v := regs [(2, 5#8), (15, 0x10#8)] }).v = regs [(2, 5#8)] := by decide

/-- W4, T39: Vy is not read. -/
theorem test_W4_T39_shr :
    (run 0x8106 { State.reset with v := regs [(1, 2#8)] }).v = regs [(1, 1#8)] ∧
    (run 0x8126 { State.reset with v := regs [(1, 5#8), (2, 0xFF#8)] }).v =
      regs [(1, 2#8), (2, 0xFF#8), (15, 1#8)] := by decide

/-- T40, T41. -/
theorem test_T40_T41_shl :
    (run 0x810E { State.reset with v := regs [(1, 0x80#8)] }).v = regs [(15, 1#8)] ∧
    (run 0x810E { State.reset with v := regs [(1, 0x40#8), (15, 1#8)] }).v = regs [(1, 0x80#8)] := by decide

/-- T42, T43: the flag wins over the result. -/
theorem test_T42_T43_shifts_of_VF :
    (run 0x8F06 { State.reset with v := regs [(15, 2#8)] }).v = regs [] ∧
    (run 0x8F0E { State.reset with v := regs [(15, 0x80#8)] }).v = regs [(15, 1#8)] := by decide

/-- T44, T45, T46: the draw is free, so the effect is tested under a given draw. -/
theorem test_T44_T45_T46_rnd :
    (State.reset.randomInto 3 0x0F#8 0xA7#8).v = regs [(3, 7#8)] ∧
    (State.reset.randomInto 3 0x00#8 0xA7#8).v = regs [] ∧
    (State.reset.randomInto 3 0xFF#8 0x5A#8).v = regs [(3, 0x5A#8)] := by decide

/-- A Cxkk takes one draw. -/
theorem test_rnd_takes_one_draw : (run 0xC30F State.reset).draws = 1 := by decide

/-! ## Index register and memory -/

/-- T50. -/
theorem test_T50_ld_I : (run 0xAFFF State.reset).i = 0x0FFF#16 := by decide

/-- T51, T52. -/
theorem test_T51_T52_add_I :
    (run 0xF01E { State.reset with i := 0xFFFF#16, v := regs [(0, 1#8), (15, 7#8)] }).i = 0#16 ∧
    (run 0xF01E { State.reset with i := 0xFFFF#16, v := regs [(0, 1#8), (15, 7#8)] }).reg vF = 7#8 ∧
    (run 0xF01E { State.reset with i := 0x0FFF#16, v := regs [(0, 1#8)] }).ea 0 = 0#12 := by decide

/-- T54, T55, T58. -/
theorem test_T54_T55_T58_glyph :
    (run 0xF029 { State.reset with v := regs [(0, 0xF#8)] }).i = 0x14B#16 ∧
    (run 0xF029 { State.reset with v := regs [(0, 0x10#8)] }).fault =
      some (.fontDigitOutOfRange 0x200#16 0x10#8) ∧
    (run 0xF029 { withParams font0FF with v := regs [(0, 0xA#8)] }).i = 0x131#16 := by decide

/-- T56, T57. -/
theorem test_T56_T57_glyph_policies :
    let v := regs [(0, 0x10#8)]
    (run 0xF029 { withParams { defaultParams with fontDigit := .lowNibble } with v := v }).i = 0x100#16 ∧
    (run 0xF029 { withParams { defaultParams with fontDigit := .unmasked } with v := v }).i = 0x150#16 := by decide

/-- W5, T60, T63. -/
theorem test_W5_T60_T63_bcd :
    bytesAt (run 0xF133 { State.reset with i := 0x300#16, v := regs [(1, 234#8)] }) 0x300 4 = [2#8, 3#8, 4#8, 0#8] ∧
    bytesAt (run 0xF033 { State.reset with i := 0x300#16, v := regs [(0, 255#8)] }) 0x300 3 = [2#8, 5#8, 5#8] ∧
    bytesAt (run 0xF033 { State.reset with i := 0xFFE#16, v := regs [(0, 123#8)] }) 0xFFE 3 = [1#8, 2#8, 3#8] := by
  decide

/-- T61, T62: the font under the policies `fault` and `ignore`. -/
theorem test_T61_T62_bcd_into_the_font :
    let s := { State.reset with i := 0x0FE#16, v := regs [(0, 123#8)] }
    run 0xF033 s = { placed 0xF033 s with pc := 0x202#16, fault := some (.fontWrite 0x200#16 0x100#12) } ∧
    bytesAt (run 0xF033 { s with params := { defaultParams with fontWrite := .ignore } }) 0xFE 3 =
      [1#8, 2#8, 0xF0#8] := by decide

/-- T64, T65. -/
theorem test_T64_T65_store :
    let s := run 0xF255 { State.reset with i := 0xFFE#16, v := regs [(0, 7#8), (1, 8#8), (2, 9#8)] }
    bytesAt s 0xFFE 3 = [7#8, 8#8, 9#8] ∧ s.i = 0x1001#16 ∧
    bytesAt (run 0xF055 { State.reset with i := 0x300#16, v := regs [(0, 0xAB#8)] }) 0x300 2 = [0xAB#8, 0#8] := by
  decide

/-- T66. -/
theorem test_T66_store_into_the_font :
    let s := { State.reset with i := 0x14E#16 }
    run 0xF155 s = { placed 0xF155 s with pc := 0x202#16, fault := some (.fontWrite 0x200#16 0x14E#12) } := by decide

/-- T68: the font is read; V5 keeps its value. -/
theorem test_T68_load :
    let s := run 0xF465 { State.reset with i := 0x100#16, v := regs [(5, 5#8)] }
    s.v = regs [(0, 0xF0#8), (1, 0x90#8), (2, 0x90#8), (3, 0x90#8), (4, 0xF0#8), (5, 5#8)] ∧ s.i = 0x105#16 := by
  decide

/-! ## Display -/

/-- T70. -/
theorem test_T70_cls :
    let s := run 0x00E0 { State.reset with fb := [(5, 255#8)], v := regs [(15, 1#8)] }
    s.pixel 0 5 = 0#8 ∧ s.upd = true ∧ s.reg vF = 1#8 := by decide

/-- A machine whose one sprite row at 0x300 is `b`. -/
def sprite (b : Byte) (v : List (Reg × Byte)) : State :=
  { State.reset with mem := [(0x300, b)], i := 0x300#16, v := regs v }

/-- W7, T76: the part right of column 63 is dropped, and does not collide. -/
theorem test_W7_T76_clipped :
    let s := run 0xD011 { sprite 0xFF#8 [(0, 60#8), (1, 5#8)] with fb := [(320, 255#8)] }
    s.fb = [(320, 255#8), (380, 255#8), (381, 255#8), (382, 255#8), (383, 255#8)] ∧ s.reg vF = 0#8 ∧
    s.upd = true := by decide

/-- T75: one collision is enough. -/
theorem test_T75_collision :
    let s := run 0xD011 { sprite 0xC0#8 [] with fb := [(0, 255#8)] }
    s.fb = [(1, 255#8)] ∧ s.reg vF = 1#8 := by decide

/-- T72: rows wrap. -/
theorem test_T72_rows_wrap :
    (run 0xD013 { State.reset with
      mem := [(0x300, 0x80#8), (0x301, 0x80#8), (0x302, 0x80#8)], i := 0x300#16, v := regs [(1, 30#8)] }).fb =
      [(0, 255#8), (1920, 255#8), (1984, 255#8)] := by decide

/-- T73, T77: the origin is reduced, and bound before VF is written. -/
theorem test_T73_T77_origin :
    (run 0xD011 (sprite 0xC0#8 [(0, 67#8), (1, 33#8)])).fb = [(67, 255#8), (68, 255#8)] ∧
    (run 0xD0F1 (sprite 0x80#8 [(15, 0xFF#8)])).fb = [(1984, 255#8)] ∧
    (run 0xD0F1 (sprite 0x80#8 [(15, 0xFF#8)])).reg vF = 0#8 := by decide

/-! ## Timers -/

/-- T80, T81. -/
theorem test_T80_T81_timer_instructions :
    (run 0xF507 { State.reset with dt := 0x3C#8, st := 9#8 }).v = regs [(5, 0x3C#8)] ∧
    (run 0xF515 { State.reset with dt := 3#8, st := 4#8 }).dt = 0#8 ∧
    (run 0xF515 { State.reset with dt := 3#8, st := 4#8 }).st = 4#8 ∧
    (run 0xF518 { State.reset with dt := 3#8, st := 4#8 }).st = 0#8 ∧
    (run 0xF518 { State.reset with dt := 3#8, st := 4#8 }).dt = 3#8 := by decide

/-- T82, T83, T84, T85. -/
theorem test_T82_to_T85_ticks :
    State.reset.tickTimers = (State.reset, false) ∧
    ({ State.reset with st := 1#8 }).tickTimers = (State.reset, true) ∧
    ({ State.reset with dt := 1#8, st := 2#8 }).tickTimers = ({ State.reset with st := 1#8 }, true) ∧
    ({ State.reset with wait := some 3, dt := 2#8 }).tickTimers =
      ({ State.reset with wait := some 3, dt := 1#8 }, false) := by decide

/-- P4's last rows: its loop waits for the host's ticks, so a run with a tick in it is not unbounded. -/
theorem test_P4_ticks_end_the_loop :
    let s := { State.reset with
      mem := [(0x204, 0xF2#8), (0x205, 0x07#8), (0x206, 0x32#8), (0x208, 0x12#8), (0x209, 0x04#8)]
      mend := 0x20A, pc := 0x204#16, dt := 1#8 }
    ¬ EndsNever s fun k => if k = 0 then .tickTimers else .step :=
  fun h => (h 3).1 ⟨by decide, by decide⟩

/-! ## Keypad -/

/-- T90, T91, T92. -/
theorem test_T90_T91_T92_key_skips :
    (run 0xE59E { State.reset with v := regs [(5, 0xA#8)], key := keys [0xA] }).pc = 0x204#16 ∧
    (run 0xE59E { State.reset with v := regs [(5, 0xA#8)] }).pc = 0x202#16 ∧
    (run 0xE5A1 { State.reset with v := regs [(5, 0xA#8)], key := keys [0xA] }).pc = 0x202#16 ∧
    (run 0xE5A1 { State.reset with v := regs [(5, 0xA#8)] }).pc = 0x204#16 := by decide

/-- T93, T94. -/
theorem test_T93_T94_key_index :
    let s := { State.reset with v := regs [(0, 0x10#8)], key := keys [0] }
    (run 0xE09E s).fault = some (.keyIndexOutOfRange 0x200#16 0x10#8) ∧ (run 0xE09E s).pc = 0x202#16 ∧
    (run 0xE09E { s with params := { defaultParams with keyIndex := .lowNibble } }).pc = 0x204#16 := by decide

/-- T95, T96: the wait begins with every key cleared, and a delivered key ends it. -/
theorem test_T95_T96_wait_for_key :
    let s := run 0xFF0A { State.reset with key := keys [2, 9] }
    s.key = keys [] ∧ s.wait = some 15 ∧ s.pc = 0x202#16 ∧ s.v = regs [] ∧ after s = s ∧
    (s.call (.deliverKey 9)).1 = { s with v := regs [(15, 9#8)], wait := none } := by decide

/-- T97, T98. -/
theorem test_T97_T98_no_wait_ended :
    State.reset.call (.deliverKey 6) = (State.reset, .done) ∧
    (({ State.reset with wait := some 3 }).call (.writeKEY 4 true)).1 =
      { State.reset with wait := some 3, key := keys [4] } := by decide

/-- The host reads KEY (R54). -/
theorem test_read_keys :
    ({ State.reset with key := keys [4] }).call .readKEY = ({ State.reset with key := keys [4] }, .keys (keys [4])) := by
  decide

/-! ## Reset and load -/

/-- T100. -/
theorem test_T100_construct :
    bytesAt State.reset 0xFF 6 = [0#8, 0xF0#8, 0x90#8, 0x90#8, 0x90#8, 0xF0#8] ∧
    bytesAt State.reset 0x14B 6 = [0xF0#8, 0x80#8, 0xF0#8, 0x80#8, 0x80#8, 0#8] := by decide

/-- T101. -/
theorem test_T101_load_too_long :
    State.reset.call (.load (List.replicate 0xE01 1#8)) = (State.reset, .refused) := by
  have h : maxRomLen < (List.replicate 0xE01 1#8).length := by rw [List.length_replicate]; decide
  simp only [State.call, State.load, h, if_true]

/-- T103, T104: what a reboot keeps and what it clears. -/
theorem test_T103_T104_reboot :
    (({ State.reset with
        mem := [(0, 2#8), (0x200, 0x60#8), (0x300, 1#8)], mend := 0x202, sp := 2#8, pc := 0x202#16,
        fault := some (.fetchOutOfRange 0x202#16), v := regs [(1, 1#8)] }).call .reboot).1 =
      { State.reset with mem := [(0x200, 0x60#8)], mend := 0x202 } := by decide

/-! ## Witnesses: a concrete case for the hypotheses of each obligation, clause by clause -/

theorem witness_DecodeOfEncodeIsTheInstruction : WellFormed (.drw 15 0 15) ∧ WellFormed (.jp 0xFFF#12) := by decide

theorem witness_EncodeOfDecodeIsTheWord : decodeWord 0xDFFF#16 = .ok (.drw 15 15 15) := by decide

theorem witness_DecodeFollowsTheOpcodeMap :
    decodeWord 0x00EE#16 = .ok .ret ∧ decodeWord 0x00EF#16 = .error (.unknownOpcode 0x00EF#16) := by decide

/-- One word of each of the five spaces, next to a legal one. -/
theorem witness_IllegalWordsAreTheListedSpaces :
    Illegal 0x00EF#16 ∧ Illegal 0x5FF1#16 ∧ Illegal 0x800F#16 ∧ Illegal 0xE09F#16 ∧ Illegal 0xF066#16 := by decide

/-- The first legal PC, and the last, which is MEND - 1. -/
theorem witness_StepRunsTheDecodedInstruction :
    (let s := placed 0x6005 State.reset
     Running s ∧ s.pc.toNat = 0x200 ∧ s.pc.toNat < s.mend ∧
     decodeWord (joinBytes (s.readByte (low12 s.pc)) (s.readByte (low12 (s.pc + 1#16)))) = .ok (.ldImm 0 5#8)) ∧
    (let s := { placed 0x1200 State.reset with mend := 0x201 }
     Running s ∧ s.pc.toNat % 2 = 0 ∧ s.pc.toNat + 1 = s.mend ∧
     decodeWord (joinBytes (s.readByte (low12 s.pc)) (s.readByte (low12 (s.pc + 1#16)))) = .ok (.jp 0x200#12)) := by
  simp only [Running]; decide

theorem witness_SuspendedStepChangesNothing :
    ({ State.reset with fault := some (.fetchOutOfRange 0x200#16) }).fault ≠ none ∧
    ({ State.reset with wait := some 0 }).wait ≠ none := by decide

/-- A running machine with UPD set, and a step after which it is set again. -/
theorem witness_StepClearsUpdFirst :
    let s := { placed 0x00E0 State.reset with upd := true }
    Running s ∧ step s = .next (after s) ∧ (after s).upd = true := ⟨⟨rfl, rfl⟩, rfl, rfl⟩

/-- Below 0x200, at MEND, and odd at both ends of the range. -/
theorem witness_BadFetchFaults :
    Running State.reset ∧
    (let s := { State.reset with pc := 0x1FF#16, mend := 0x210 }; Running s ∧ s.pc.toNat < 0x200) ∧
    State.reset.mend = State.reset.pc.toNat ∧
    (let s := { State.reset with pc := 0x201#16, mend := 0x202 }
     Running s ∧ 0x200 ≤ s.pc.toNat ∧ s.pc.toNat + 1 = s.mend ∧ s.pc.toNat % 2 = 1) := by
  simp only [Running]; decide

theorem witness_StepWhileFinishedFaults : Running State.reset ∧ State.reset.finished = true := by
  simp only [Running]; decide

theorem witness_IllegalWordFaults :
    let s := placed 0x0123 State.reset
    Running s ∧ s.pc.toNat = 0x200 ∧ s.pc.toNat < s.mend ∧
    0x0123#16 = joinBytes (s.readByte (low12 s.pc)) (s.readByte (low12 (s.pc + 1#16))) ∧
    ∀ i : Instr, decodeWord 0x0123#16 ≠ .ok i := by
  have h : decodeWord 0x0123#16 = .error (.unknownOpcode 0x0123#16) := by decide
  refine ⟨by simp only [Running]; decide, by decide, by decide, by decide, ?_⟩
  intro i; simp [h]

/-- A fault of code 1 and one of code 3: PC stays, PC is past the word. -/
theorem witness_FaultsArePrecise :
    (Running State.reset ∧ step State.reset = .next (after State.reset) ∧
      (after State.reset).fault = some (.fetchOutOfRange 0x200#16)) ∧
    (let s := placed 0x0000 State.reset
     Running s ∧ step s = .next (after s) ∧
     (after s).fault = some (.unknownOpcode 0#16 0#4 0#4 0#4 0#4 0x200#16)) :=
  ⟨⟨⟨rfl, rfl⟩, rfl, rfl⟩, ⟨rfl, rfl⟩, rfl, rfl⟩

/-- A fault of the last code, 8. -/
theorem witness_FaultRecordsNameTheInstruction :
    let s := placed 0xE09E { State.reset with v := regs [(0, 0x10#8)] }
    Running s ∧ step s = .next (after s) ∧ (after s).fault = some (.keyIndexOutOfRange 0x200#16 0x10#8) :=
  ⟨⟨rfl, rfl⟩, rfl, rfl⟩

/-- Each instruction that can fault, faulting. -/
theorem witness_OnlyTheListedInstructionsFault :
    let faults := fun (i : Instr) (s : State) (f : Fault) => s.fault = none ∧ exec i s = .next { s with fault := some f }
    let s := { State.reset with i := 0x100#16, v := regs [(0, 0x10#8)] }
    faults (.call 0#12) { withParams strict with sp := 0xFE#8 } (.stackOverflow 0x1FE#16 0xFE#8) ∧
    faults (.call 0#12) { withParams font0FF with sp := 0xFE#8 } (.fontWrite 0x1FE#16 0x0FF#12) ∧
    faults .ret (withParams strict) (.stackUnderflow 0x1FE#16 0#8) ∧
    faults (.ldB 0) s (.fontWrite 0x1FE#16 0x100#12) ∧ faults (.ldMemVx 0) s (.fontWrite 0x1FE#16 0x100#12) ∧
    faults (.ldF 0) s (.fontDigitOutOfRange 0x1FE#16 0x10#8) ∧
    faults (.skp 0) s (.keyIndexOutOfRange 0x1FE#16 0x10#8) ∧
    faults (.sknp 0) s (.keyIndexOutOfRange 0x1FE#16 0x10#8) :=
  ⟨⟨rfl, rfl⟩, ⟨rfl, rfl⟩, ⟨rfl, rfl⟩, ⟨rfl, rfl⟩, ⟨rfl, rfl⟩, ⟨rfl, rfl⟩, ⟨rfl, rfl⟩, ⟨rfl, rfl⟩⟩

/-- The result, and both values of a flag, of the ALU statements, which have no hypotheses, are in the tests above; a
bit of `kk` that is 0 is all the last clause about Cxkk asks for. -/
theorem witness_RandomIsTheDrawMasked : (0x0F#8).getLsbD 4 = false := by decide

/-- The last word of each of the two illegal spaces. -/
theorem witness_JumpAndSkips :
    0x5FFF#16 &&& 0xF000#16 = 0x5000#16 ∧ 0x9FFF#16 &&& 0xF000#16 = 0x9000#16 ∧ 0x9FFF#16 &&& 0x000F#16 ≠ 0#16 := by
  decide

/-- The highest SP a strict push takes, the highest one below the font at 0x0FF, and a push into that font under
write_through. -/
theorem witness_CallPushesAndJumps :
    (let s := { withParams strict with sp := 0xFD#8 }
     (s.params.strictStack = true → s.sp.toNat < 0xFE) ∧ (s.params.fontWrite = .fault →
       inFont s.params s.pushHigh.toNat = false ∧ inFont s.params s.pushLow.toNat = false)) ∧
    (let s := { withParams font0FF with sp := 0xFC#8 }
     s.params.fontWrite = .fault ∧ inFont s.params s.pushHigh.toNat = false ∧
     inFont s.params s.pushLow.toNat = false) ∧
    (let s := { withParams { font0FF with fontWrite := .writeThrough } with sp := 0xFE#8 }
     s.params.fontWrite ≠ .fault ∧ s.writable s.pushLow = true) := by decide

/-- The lowest SP that overflows; a high byte in the font; a low byte alone in it. -/
theorem witness_CallFaults :
    (let s := { withParams strict with sp := 0xFE#8 }
     s.params.strictStack = true ∧ s.sp.toNat = 0xFE) ∧
    (let s := { withParams font0FF with sp := 0xFF#8 }
     ¬ (s.params.strictStack = true ∧ 0xFE ≤ s.sp.toNat) ∧ s.params.fontWrite = .fault ∧
     inFont s.params s.pushHigh.toNat = true) ∧
    (let s := { withParams font0FF with sp := 0xFE#8 }
     ¬ (s.params.strictStack = true ∧ 0xFE ≤ s.sp.toNat) ∧ s.params.fontWrite = .fault ∧
     inFont s.params s.pushHigh.toNat = false ∧ inFont s.params s.pushLow.toNat = true) := by decide

/-- Permissive at SP = 0; strict at SP = 2 and at SP = 1. -/
theorem witness_ReturnPopsPc :
    State.reset.params.strictStack = false ∧
    2 ≤ ({ withParams strict with sp := 2#8 }).sp.toNat ∧
    (let s := { withParams strict with sp := 1#8 }; s.params.strictStack = true ∧ s.sp.toNat < 2) := by decide

/-- SP = 0xFE, where the push wraps SP. -/
theorem witness_CallThenReturnRestoresPcAndSp :
    let s := { State.reset with sp := 0xFE#8 }
    (s.params.strictStack = true → s.sp.toNat < 0xFE) ∧ s.writable s.pushHigh = true ∧ s.writable s.pushLow = true := by
  decide

/-- The digits 15 and 16, 16 under each policy. -/
theorem witness_LoadGlyphAddress :
    ((({ State.reset with v := regs [(0, 15#8)] }).reg 0).toNat = 15) ∧
    (let s := { State.reset with v := regs [(0, 16#8)] }
     (s.reg 0).toNat = 16 ∧ s.params.fontDigit = .fault) ∧
    ({ defaultParams with fontDigit := .lowNibble }).fontDigit = .lowNibble ∧
    ({ defaultParams with fontDigit := .unmasked }).fontDigit = .unmasked := by decide

/-- The three bytes just below the font, and just above it. -/
theorem witness_BcdStoresThreeDigits :
    (∀ k < 3, inFont defaultParams (({ State.reset with i := 0x0FD#16 }).ea k).toNat = false) ∧
    (∀ k < 3, inFont defaultParams (({ State.reset with i := 0x150#16 }).ea k).toNat = false) := by decide

/-- Sixteen registers just below the font, and across the end of memory. -/
theorem witness_StoreRegistersWritesTheRange :
    (∀ k : Reg, k ≤ 15 → inFont defaultParams (({ State.reset with i := 0x0F0#16 }).ea k.val).toNat = false) ∧
    (∀ k : Reg, k ≤ 15 → inFont defaultParams (({ State.reset with i := 0xFF8#16 }).ea k.val).toNat = false) := by
  decide

/-- The first offset is in the font; only the last of three, and the last of sixteen, is. -/
theorem witness_FontWriteFaultNamesTheLowestOffset :
    let meets := fun (i : Word) (k : Nat) =>
      inFont defaultParams (({ State.reset with i := i }).ea k).toNat = true ∧
      ∀ j < k, inFont defaultParams (({ State.reset with i := i }).ea j).toNat = false
    State.reset.params.fontWrite = .fault ∧ meets 0x14F#16 0 ∧ meets 0x0FE#16 2 ∧ meets 0x0F1#16 15 := by decide

theorem witness_StoreThenLoadGivesTheRegistersBack :
    ∀ k : Reg, k ≤ 15 → ({ State.reset with i := 0x300#16 }).writable (({ State.reset with i := 0x300#16 }).ea k.val) =
      true := by decide

/-- The last pixel of a clipped row is covered, and a pixel of the row below is not. -/
theorem witness_DrawInvertsTheCoveredPixels :
    let s := sprite 0xFF#8 [(0, 60#8), (1, 5#8)]
    SpriteCovers s 60 5 1 5 63 ∧ ¬ SpriteCovers s 60 5 1 6 63 := by
  refine ⟨⟨0, 3, by decide⟩, ?_⟩
  rintro ⟨row, b, hr, _, hy, _⟩
  omega

/-- A pixel that goes off, and a draw of no rows, in which none does. -/
theorem witness_CollisionFlagCoversTheWholeSprite :
    (let s := { sprite 0x80#8 [] with fb := [(0, 255#8)] }
     s.pixel 0 0 ≠ 0#8 ∧ (run 0xD001 s).pixel 0 0 = 0#8) ∧
    (run 0xD000 (sprite 0x80#8 [])).fb = [] := by decide

/-- A blank frame is of 0 and 255 only, and a set bit falls on an off pixel of it. -/
theorem witness_DrawTwiceRestoresTheFrame :
    let s := sprite 0x80#8 []
    (0 : Reg) ≠ vF ∧ (1 : Reg) ≠ vF ∧ (∀ py px : Nat, py < 32 → px < 64 → s.pixel py px = 0#8 ∨ s.pixel py px = 255#8) ∧
    s.pixel 0 0 = 0#8 ∧ SpriteCovers s 0 0 1 0 0 :=
  ⟨by decide, by decide, fun _ _ _ _ => .inl rfl, by decide, 0, 0, by decide⟩

theorem witness_TickStatements : ({ State.reset with dt := 5#8, st := 255#8 }).fault = none := by decide

/-- Key numbers 15 and 16, 16 under each policy. -/
theorem witness_KeySkips :
    (({ State.reset with v := regs [(0, 15#8)] }).reg 0).toNat ≤ 0xF ∧
    (let s := { withParams { defaultParams with keyIndex := .lowNibble } with v := regs [(0, 16#8)] }
     (s.reg 0).toNat = 16 ∧ s.params.keyIndex = .lowNibble) ∧
    (let s := { State.reset with v := regs [(0, 16#8)] }
     0xF < (s.reg 0).toNat ∧ s.params.keyIndex = .fault) := by decide

/-- A wait with key 15 to come, no wait, and the number 16. -/
theorem witness_DeliverKeyEndsTheWait :
    (let s := { State.reset with wait := some 15 }; s.fault = none ∧ 15 < 16 ∧ s.wait = some 15) ∧
    (State.reset.fault = none ∧ State.reset.wait = none) ∧ 16 ≤ 16 := by decide

/-- Every kind of call that leaves a wait. -/
theorem witness_WaitProtocol :
    let s := { State.reset with wait := some 3 }
    s.fault = none ∧ s.wait = some 3 ∧
    ∀ c ∈ [HostCall.step, .tickTimers, .writeKEY 4 true, .deliverKey 16, .finished, .readFB, .readUPD, .readKEY,
      .readWAIT, .readFAULT], c.leavesWait = true := by decide

/-- The longest ROM that is taken and the shortest that is not. -/
theorem witness_LoadCopiesTheProgram :
    (List.replicate 0xE00 1#8).length ≤ 0xE00 ∧ 0xE00 < (List.replicate 0xE01 1#8).length := by
  simp only [List.length_replicate]; decide

theorem witness_HaltedUntilReboot :
    ({ State.reset with fault := some (.fetchOutOfRange 0x200#16) }).fault = some (.fetchOutOfRange 0x200#16) ∧
    HostCall.step ≠ .reboot := by decide

/-- 1200 at 0x200, and every kind of call that keeps the program. -/
theorem witness_JumpToItselfNeverEnds :
    (let s := placed 0x1200 State.reset
     Running s ∧ s.pc.toNat = 0x200 ∧ s.pc.toNat < s.mend ∧ decodeWord s.fetchWord = .ok (.jp (low12 s.pc))) ∧
    ∀ c ∈ [HostCall.step, .tickTimers, .writeKEY 4 true, .deliverKey 15, .finished, .readFB, .readUPD, .readKEY,
      .readWAIT, .readFAULT], c.keepsProgram = true := by
  simp only [Running]; decide

/-- An instruction that completes, and one that raises. -/
theorem witness_InstructionsChangeOnlyWhatTheyWrite :
    exec (.ldI 5#12) State.reset = .next { State.reset with i := 5#16 } ∧
    exec .ret (withParams strict) = .next { withParams strict with fault := some (.stackUnderflow 0x1FE#16 0#8) } :=
  ⟨rfl, rfl⟩

/-- A machine in use: a byte written, a pixel on, a word on the stack. -/
def busy : State := { placed 0x1200 State.reset with sp := 2#8, fb := [(5, 255#8)], upd := true }

/-- A state besides the constructed ones that meets the invariant; it takes a step. -/
theorem witness_Inv : Inv busy ∧ step busy = .next (after busy) ∧ busy.params.fontBase = .at100 := by
  have hm : busy.mem = [(0x200, 0x12#8)] := by decide
  refine ⟨⟨by decide, by decide, ?_, by decide, by decide, by decide, ?_, ?_⟩, rfl, by decide⟩
  · intro y x _ _
    have h : busy.pixel y x = if 5 = pixelIndex y x then 255#8 else 0#8 := rfl
    rw [h]
    split
    · exact .inr rfl
    · exact .inl rfl
  · intro _ a ha
    have hne : ¬ (0x200 = a.toNat) := by
      intro e
      rw [← e] at ha
      exact absurd ha (by decide)
    show cellsRead (unlisted busy.params) busy.mem a.toNat = _
    rw [hm]
    simp only [cellsRead, hne, if_false]
  · intro f hf
    cases (show (none : Option Fault) = some f from hf)

/-- A reachable state that is not the constructed one. -/
theorem witness_Reachable :
    Reachable defaultParams (State.reset.calls [.load [0x60#8, 0x05#8], .step, .tickTimers]) :=
  .called _ (.called _ (.called _ .constructed))

theorem witness_CanonicalFormsAreUnique :
    Memory.wf defaultParams [(0x100, 0#8), (0x300, 1#8)] ∧ Frame.wf [(0, 255#8), (2047, 255#8)] := by decide

/-- At the last word of memory, and from a PC no fetch can start at. -/
theorem witness_PlacedWordRunsNext :
    decodeTableWord 16 0x6005 = some (.ldImm 0 5#8) ∧
    (after (({ State.reset with pc := 0xFFE#16 }).withFetchWord 16 0x6005)).reg 0 = 5#8 ∧
    (after (({ State.reset with pc := 0x1FF#16, wait := some 1 }).withFetchWord 16 0x6005)).reg 0 = 5#8 := by decide

end Sys2Proof.Tests
end

section
/-! State invariants and frames (10_state.md): what an instruction may change, and what every step keeps. -/

namespace Sys2Proof.Machine

/-! ## Agreement of two states, field by field

`Part.same` compares memory and the framebuffer by what they read as. The invariant speaks of the lists themselves, so
agreement is of fields; a frame follows from it. -/

/-- The field of the part is the same data in `t` as in `s`. -/
def Part.sameField (s t : State) : Part → Prop
  | .params => t.params = s.params
  | .mem => t.mem = s.mem
  | .v => t.v = s.v
  | .i => t.i = s.i
  | .pc => t.pc = s.pc
  | .sp => t.sp = s.sp
  | .dt => t.dt = s.dt
  | .st => t.st = s.st
  | .key => t.key = s.key
  | .wait => t.wait = s.wait
  | .fb => t.fb = s.fb
  | .upd => t.upd = s.upd
  | .mend => t.mend = s.mend
  | .fault => t.fault = s.fault
  | .draws => t.draws = s.draws

/-- Every field but those of the listed parts is the same in `t` as in `s`. -/
def Agree (except : List Part) (s t : State) : Prop := ∀ p : Part, p ∉ except → p.sameField s t

/-- `Agree` written out over the fifteen parts, for `simp` to read off the field lemmas. -/
theorem agree_iff {l : List Part} {s t : State} :
    Agree l s t ↔
      (.params ∉ l → t.params = s.params) ∧ (.mem ∉ l → t.mem = s.mem) ∧ (.v ∉ l → t.v = s.v) ∧
      (.i ∉ l → t.i = s.i) ∧ (.pc ∉ l → t.pc = s.pc) ∧ (.sp ∉ l → t.sp = s.sp) ∧ (.dt ∉ l → t.dt = s.dt) ∧
      (.st ∉ l → t.st = s.st) ∧ (.key ∉ l → t.key = s.key) ∧ (.wait ∉ l → t.wait = s.wait) ∧
      (.fb ∉ l → t.fb = s.fb) ∧ (.upd ∉ l → t.upd = s.upd) ∧ (.mend ∉ l → t.mend = s.mend) ∧
      (.fault ∉ l → t.fault = s.fault) ∧ (.draws ∉ l → t.draws = s.draws) := by
  constructor
  · exact fun h => ⟨h _, h _, h _, h _, h _, h _, h _, h _, h _, h _, h _, h _, h _, h _, h _⟩
  · rintro ⟨_, _, _, _, _, _, _, _, _, _, _, _, _, _, _⟩ p
    cases p <;> assumption

theorem Agree.widen {l l' : List Part} {s t : State} (h : Agree l s t) (hl : l ⊆ l') : Agree l' s t :=
  fun p hp => h p fun hm => hp (hl hm)

/-- States that agree field by field read the same. Memory's reading rests on the parameters too. -/
theorem Agree.unchanged {l : List Part} {s t : State} (h : Agree l s t) (hl : .params ∉ l) : Unchanged l s t := by
  intro p hp
  have hf := h p hp
  cases p with
  | mem => exact State.readByte_congr hf (h .params hl)
  | v => exact State.reg_congr hf
  | key => exact fun k => congrArg (fun keys => Vector.get keys k) hf
  | fb => exact fun y x _ _ => congrArg (fun fb => fbRead fb y x) hf
  | _ => exact hf

/-! ## What an instruction can do -/

/-- `t` is `s` with a fault recorded, of a kind the parameters allow (60_exceptions.md R340, R344). -/
def Raised (s t : State) : Prop := ∃ f : Fault, faultAllowed s.params f ∧ t = { s with fault := some f }

theorem Raised.agree {s t : State} (h : Raised s t) : Agree [.fault] s t := by
  obtain ⟨f, -, rfl⟩ := h
  simp [agree_iff]

/-- The two ways an instruction that writes the parts `l` can go: it raises, or it completes. -/
def Performs (l : List Part) (s : State) (r : Result) : Prop := ∀ t : State, r = .next t → Raised s t ∨ Agree l s t

theorem Performs.completes {l : List Part} {s t : State} (h : Agree l s t) : Performs l s (.next t) := by
  rintro _ ⟨⟩
  exact .inr h

theorem Performs.raises {l : List Part} {s : State} {f : Fault} (h : faultAllowed s.params f) :
    Performs l s (raise f s) :=
  fun _ ht => .inl ⟨f, h, raise_eq_next.1 ht⟩

theorem Performs.checkedStore {l : List Part} {s : State} {ws : List (Addr × Byte)} {rest : State → State}
    (h : Agree l s (rest (s.storeAll ws))) : Performs l s (s.checkedStore ws rest) := by
  intro t ht
  rcases State.checkedStore_cases ht with ⟨a, ha, rfl⟩ | ⟨-, rfl⟩
  · exact .inl ⟨.fontWrite s.instrAddr a, (State.fontHit_eq_some ha).1, rfl⟩
  · exact .inr h

/-! Each guard of an instruction fails only under the policy its fault needs. -/

theorem State.strict_of_pushOverflows {s : State} (h : s.pushOverflows = true) : s.params.strictStack = true := by
  simp_all [State.pushOverflows]

theorem State.strict_of_popUnderflows {s : State} (h : s.popUnderflows = true) : s.params.strictStack = true := by
  simp_all [State.popUnderflows]

theorem State.keyIndex_of_keyNumber_eq_none {s : State} {b : Byte} (h : s.keyNumber b = none) :
    s.params.keyIndex = .fault := by
  unfold State.keyNumber at h
  split at h
  next => cases h
  next hn =>
    cases hk : s.params.keyIndex with
    | fault => rfl
    | lowNibble => exact absurd (.inr hk) hn

theorem State.fontDigit_of_fontDigitOf_eq_none {s : State} {b : Byte} (h : s.fontDigitOf b = none) :
    s.params.fontDigit = .fault := by
  unfold State.fontDigitOf at h
  split at h
  next => cases h
  next =>
    split at h
    next hd => exact hd
    next => cases h
    next => cases h

/-! ## The instructions with a guard -/

/-- The three ways 2nnn can go (41_control_flow.md R162). -/
theorem execCall_cases {nnn : Addr} {s t : State} (h : execCall nnn s = .next t) :
    (s.pushOverflows = true ∧ t = { s with fault := some (.stackOverflow s.instrAddr s.sp) }) ∨
    (s.pushOverflows = false ∧ ∃ a, s.fontHit [s.pushHigh, s.pushLow] = some a ∧
      t = { s with fault := some (.fontWrite s.instrAddr a) }) ∨
    (s.pushOverflows = false ∧ s.fontHit [s.pushHigh, s.pushLow] = none ∧
      t = { s.storeAll (s.pushWrites s.pc) with sp := s.spAfterPush, pc := absolute nnn }) := by
  unfold execCall at h
  split at h
  next ho => exact .inl ⟨ho, raise_eq_next.1 h⟩
  next ho =>
    have ho : s.pushOverflows = false := by simpa using ho
    rcases State.checkedStore_cases h with ⟨a, ha, rfl⟩ | ⟨hn, rfl⟩
    · exact .inr (.inl ⟨ho, a, ha, rfl⟩)
    · exact .inr (.inr ⟨ho, hn, by simp [State.spAfterPush]⟩)

/-- The two ways 00EE can go (41_control_flow.md R164). -/
theorem execRet_cases {s t : State} (h : execRet s = .next t) :
    (s.popUnderflows = true ∧ t = { s with fault := some (.stackUnderflow s.instrAddr s.sp) }) ∨
    (s.popUnderflows = false ∧ t = { s with sp := s.spAfterPop, pc := s.readWord (zext16 s.spAfterPop) }) := by
  unfold execRet at h
  split at h
  next hu => exact .inl ⟨hu, raise_eq_next.1 h⟩
  next hu => exact .inr ⟨by simpa using hu, by simpa using h.symm⟩

theorem execCall_performs (nnn : Addr) (s : State) : Performs [.mem, .sp, .pc] s (execCall nnn s) := by
  intro t h
  rcases execCall_cases h with ⟨ho, rfl⟩ | ⟨-, a, ha, rfl⟩ | ⟨-, -, rfl⟩
  · exact .inl ⟨.stackOverflow s.instrAddr s.sp, State.strict_of_pushOverflows ho, rfl⟩
  · exact .inl ⟨.fontWrite s.instrAddr a, (State.fontHit_eq_some ha).1, rfl⟩
  · exact .inr (by simp [agree_iff])

theorem execRet_performs (s : State) : Performs [.sp, .pc] s (execRet s) := by
  intro t h
  rcases execRet_cases h with ⟨hu, rfl⟩ | ⟨-, rfl⟩
  · exact .inl ⟨.stackUnderflow s.instrAddr s.sp, State.strict_of_popUnderflows hu, rfl⟩
  · exact .inr (by simp [agree_iff])

theorem execSkp_performs (x : Reg) (s : State) : Performs [.pc] s (execSkp x s) := by
  unfold execSkp
  split
  next => exact .completes (by simp [agree_iff])
  next h => exact .raises (State.keyIndex_of_keyNumber_eq_none h)

theorem execSknp_performs (x : Reg) (s : State) : Performs [.pc] s (execSknp x s) := by
  unfold execSknp
  split
  next => exact .completes (by simp [agree_iff])
  next h => exact .raises (State.keyIndex_of_keyNumber_eq_none h)

theorem execLdF_performs (x : Reg) (s : State) : Performs [.i] s (execLdF x s) := by
  unfold execLdF
  split
  next => exact .completes (by simp [agree_iff])
  next h => exact .raises (State.fontDigit_of_fontDigitOf_eq_none h)

theorem execLdB_performs (x : Reg) (s : State) : Performs [.mem] s (execLdB x s) := by
  unfold execLdB
  exact .checkedStore (by simp [agree_iff])

theorem execLdMemVx_performs (x : Reg) (s : State) : Performs [.mem, .i] s (execLdMemVx x s) := by
  unfold execLdMemVx
  exact .checkedStore (by simp [agree_iff])

theorem execLdVxMem_performs (x : Reg) (s : State) : Performs [.v, .i] s (execLdVxMem x s) := by
  unfold execLdVxMem
  rw [State.loadRegs_eq]
  exact .completes (by simp [agree_iff])

/-! ## All instructions -/

/-- Every instruction raises a fault its parameters allow, or changes the fields of the parts it writes and no other
(10_state.md R33, R35, R38, R39, R44 to R48; 60_exceptions.md R345). The instructions with a guard or a loop are named;
each of the others answers one next state, whose fields `simp` reads off. -/
theorem exec_performs (i : Instr) (s : State) : Performs (writesOf i) s (exec i s) := by
  cases i with
  | ret => exact execRet_performs s
  | call nnn => exact execCall_performs nnn s
  | skp x => exact execSkp_performs x s
  | sknp x => exact execSknp_performs x s
  | ldF x => exact execLdF_performs x s
  | ldB x => exact execLdB_performs x s
  | ldMemVx x => exact execLdMemVx_performs x s
  | ldVxMem x => exact execLdVxMem_performs x s
  | rnd x kk => exact .completes (by simp [agree_iff, writesOf, State.randomInto])
  | _ => exact .completes (by simp [agree_iff, writesOf])

/-- No instruction writes the parameters, MEND or FAULT as its effect. -/
theorem not_mem_writesOf (i : Instr) : .params ∉ writesOf i ∧ .mend ∉ writesOf i ∧ .fault ∉ writesOf i := by
  cases i <;> simp [writesOf]

/-- Fault or not, an instruction changes no field but FAULT and those it writes. -/
theorem exec_agree {i : Instr} {s t : State} (h : exec i s = .next t) : Agree (.fault :: writesOf i) s t := by
  rcases exec_performs i s t h with hr | ha
  · exact hr.agree.widen (by simp)
  · exact ha.widen (by simp)

/-- Settles O53: an instruction that raises changes FAULT alone; one that completes agrees with the state before it on
FAULT and on all it does not write. -/
theorem instructionsChangeOnlyWhatTheyWrite : Obligations.InstructionsChangeOnlyWhatTheyWrite := by
  intro i s t h
  obtain ⟨hparams, hmend, hfault⟩ := not_mem_writesOf i
  have ha := exec_agree h
  refine ⟨ha.unchanged (by simp [hparams]), fun hne => ?_, ha .mend (by simp [hmend]), ha .params (by simp [hparams])⟩
  rcases exec_performs i s t h with hr | hc
  · exact hr.agree.unchanged (by simp)
  · exact absurd (hc .fault hfault) hne

/-! ## Construction (10_state.md R52) -/

/-- Byte `k` of FONT_DATA, in bounds: the reductions of `fontByte` are no reductions. -/
theorem fontByte_of_lt (p : Params) {k : Nat} (h : k < 80) :
    fontByte p k = (p.fontData.get ⟨k / 5, by omega⟩).get ⟨k % 5, by omega⟩ := by
  have hglyph : Fin.ofNat 16 (k / 5) = ⟨k / 5, by omega⟩ := Fin.ext (Nat.mod_eq_of_lt (by omega))
  simp only [fontByte, hglyph]
  rfl

/-- A constructed machine lists no byte, so every address reads as construction leaves it. -/
@[simp] theorem State.readByte_construct (p : Params) (a : Addr) :
    (State.construct p).readByte a = unlisted p a.toNat := rfl

@[simp] theorem State.reg_construct (p : Params) (r : Reg) : (State.construct p).reg r = 0#8 := by
  simp [State.reg, State.construct, Vector.get_eq_getElem]

@[simp] theorem State.keyDown_construct (p : Params) (k : Key) : (State.construct p).keyDown k = false := by
  simp [State.keyDown, State.construct, Vector.get_eq_getElem]

@[simp] theorem State.pixel_construct (p : Params) (y x : Nat) : (State.construct p).pixel y x = 0#8 := rfl

/-- Settles O47: memory by the two cases of the font region, the rest field by field. -/
theorem constructedState : Obligations.ConstructedState := by
  intro p
  refine ⟨fun a => ?_, State.reg_construct p, rfl, rfl, rfl, rfl, rfl, State.keyDown_construct p, rfl,
    State.pixel_construct p, rfl, rfl, rfl, rfl⟩
  rw [State.readByte_construct]
  split
  next h => rw [unlisted, if_pos (by simpa [inFont] using h), fontByte_of_lt p (by omega)]
  next h => rw [unlisted, if_neg (by simpa [inFont] using h)]

theorem Inv.construct (p : Params) : Inv (State.construct p) where
  memWf := Memory.wf_construct p
  frameWf := Frame.wf_nil
  frameBinary y x _ _ := .inl (State.pixel_construct p y x)
  mendLow := by simp [State.construct]
  mendHigh := by simp [State.construct]
  spEven := rfl
  fontIntact _ a _ := State.readByte_construct p a
  faultKind := by simp [State.construct]

/-- Settles O54: the reset machine is the one constructed with the default parameters. -/
theorem invariantHoldsAfterConstruction : Obligations.InvariantHoldsAfterConstruction :=
  ⟨Inv.construct, Inv.construct defaultParams⟩

/-! ## The framebuffer under a draw (10_state.md R46) -/

/-- The framebuffer's part of the invariant: canonical, every pixel 0 or 255. -/
def Frame.Ok (fb : List Host.Cell) : Prop :=
  Frame.wf fb ∧ ∀ y x : Nat, y < 32 → x < 64 → fbRead fb y x = 0#8 ∨ fbRead fb y x = 255#8

theorem Inv.frameOk {s : State} (h : Inv s) : Frame.Ok s.fb := ⟨h.frameWf, h.frameBinary⟩

theorem Frame.Ok.nil : Frame.Ok [] := ⟨Frame.wf_nil, fun _ _ _ _ => .inl rfl⟩

theorem Frame.Ok.write {fb : List Host.Cell} (h : Frame.Ok fb) {y x : Nat} (hy : y < 32) (hx : x < 64) {v : Byte}
    (hv : v = 0#8 ∨ v = 255#8) : Frame.Ok (fbWrite fb y x v) := by
  refine ⟨Frame.wf_write h.1 hy hx v, fun y' x' hy' hx' => ?_⟩
  rw [fbRead_write fb hx hx']
  split
  · exact hv
  · exact h.2 y' x' hy' hx'

theorem Frame.Ok.xorPixel {d : DrawState} (h : Frame.Ok d.fb) {y x : Nat} (hy : y < 32) (hx : x < 64) :
    Frame.Ok (xorPixel y x d).fb := by
  unfold Machine.xorPixel
  split
  · exact h.write hy hx (.inl rfl)
  · exact h.write hy hx (.inr rfl)

/-- An offset past column 63 is clipped, so every write is inside the frame (44_display.md R261). -/
theorem Frame.Ok.drawBit {d : DrawState} (h : Frame.Ok d.fb) {y : Nat} (hy : y < 32) (x0 : Nat) (sprite : Byte)
    (b : Nat) : Frame.Ok (drawBit x0 y sprite d b).fb := by
  unfold Machine.drawBit
  split
  next hb => exact h.xorPixel hy (by simp_all)
  next => exact h

theorem Frame.Ok.drawRow {d : DrawState} (h : Frame.Ok d.fb) {y : Nat} (hy : y < 32) (x0 : Nat) (sprite : Byte) :
    Frame.Ok (drawRow x0 y sprite d).fb :=
  List.foldlRecOn (motive := fun d : DrawState => Frame.Ok d.fb) _ _ h fun _ hd b _ => hd.drawBit hy x0 sprite b

theorem Frame.Ok.drawSprite {s : State} (h : Frame.Ok s.fb) (x0 y0 n : Nat) :
    Frame.Ok (s.drawSprite x0 y0 n).fb :=
  List.foldlRecOn (motive := fun d : DrawState => Frame.Ok d.fb) _ _ h fun _ hd _ _ =>
    hd.drawRow (Nat.mod_lt _ (by decide)) x0 _

/-! ## What an instruction does to the fields of the invariant

In each lemma the instructions that write the field are named, and the others leave it by `exec_agree`. -/

/-- The display instructions keep the framebuffer canonical and binary. -/
theorem exec_frameOk {i : Instr} {s t : State} (h : exec i s = .next t) (hs : Frame.Ok s.fb) : Frame.Ok t.fb := by
  have hkeep : .fb ∉ .fault :: writesOf i → Frame.Ok t.fb := fun hn => by
    rwa [show t.fb = s.fb from exec_agree h .fb hn]
  cases i with
  | cls => cases h; exact .nil
  | drw x y n => cases h; exact hs.drawSprite _ _ _
  | _ => exact hkeep (by simp [writesOf])

/-- A checked store whose rest leaves memory writes some bytes under the font-write policy, or none. -/
theorem State.checkedStore_mem {s t : State} {ws : List (Addr × Byte)} {rest : State → State}
    (h : s.checkedStore ws rest = .next t) (hrest : ∀ u : State, (rest u).mem = u.mem) :
    ∃ ws' : List (Addr × Byte), t.mem = (s.storeAll ws').mem := by
  rcases State.checkedStore_cases h with ⟨a, -, rfl⟩ | ⟨-, rfl⟩
  · exact ⟨[], rfl⟩
  · exact ⟨ws, hrest _⟩

/-- Whatever an instruction does to memory it does by writes under the font-write policy (20_memory.md R80). -/
theorem exec_mem {i : Instr} {s t : State} (h : exec i s = .next t) :
    ∃ ws : List (Addr × Byte), t.mem = (s.storeAll ws).mem := by
  have hkeep : .mem ∉ .fault :: writesOf i → ∃ ws : List (Addr × Byte), t.mem = (s.storeAll ws).mem :=
    fun hn => ⟨[], exec_agree h .mem hn⟩
  cases i with
  | call nnn =>
    rcases execCall_cases h with ⟨-, rfl⟩ | ⟨-, a, -, rfl⟩ | ⟨-, -, rfl⟩
    · exact ⟨[], rfl⟩
    · exact ⟨[], rfl⟩
    · exact ⟨s.pushWrites s.pc, rfl⟩
  | ldB x => exact State.checkedStore_mem (rest := id) h fun _ => rfl
  | ldMemVx x => exact State.checkedStore_mem (rest := fun u => u.advanceI x) h fun _ => rfl
  | _ => exact hkeep (by simp [writesOf])

theorem State.spAfterPush_even {s : State} (h : s.sp.toNat % 2 = 0) : s.spAfterPush.toNat % 2 = 0 := by
  simp only [State.spAfterPush, BitVec.toNat_add, BitVec.toNat_ofNat]
  omega

theorem State.spAfterPop_even {s : State} (h : s.sp.toNat % 2 = 0) : s.spAfterPop.toNat % 2 = 0 := by
  simp only [State.spAfterPop, BitVec.toNat_add, BitVec.toNat_ofNat]
  omega

/-- SP moves by 2 (10_state.md R39). -/
theorem exec_sp_even {i : Instr} {s t : State} (h : exec i s = .next t) (hs : s.sp.toNat % 2 = 0) :
    t.sp.toNat % 2 = 0 := by
  have hkeep : .sp ∉ .fault :: writesOf i → t.sp.toNat % 2 = 0 := fun hn => by
    rwa [show t.sp = s.sp from exec_agree h .sp hn]
  cases i with
  | ret =>
    rcases execRet_cases h with ⟨-, rfl⟩ | ⟨-, rfl⟩
    · exact hs
    · exact State.spAfterPop_even hs
  | call nnn =>
    rcases execCall_cases h with ⟨-, rfl⟩ | ⟨-, a, -, rfl⟩ | ⟨-, -, rfl⟩
    · exact hs
    · exact hs
    · exact State.spAfterPush_even hs
  | _ => exact hkeep (by simp [writesOf])

/-! ## The invariant -/

/-- What keeps the invariant: parameters and MEND stay, memory changes by writes under the font-write policy alone,
the frame is canonical and binary, SP is even, and a recorded fault is allowed. -/
theorem Inv.of_writes {s t : State} (hs : Inv s) {ws : List (Addr × Byte)} (hparams : t.params = s.params)
    (hmem : t.mem = (s.storeAll ws).mem) (hframe : Frame.Ok t.fb) (hmend : t.mend = s.mend)
    (hsp : t.sp.toNat % 2 = 0) (hfault : ∀ f : Fault, t.fault = some f → faultAllowed s.params f) : Inv t where
  memWf := by
    rw [hparams, hmem]
    exact Memory.wf_storeAll hs.memWf ws
  frameWf := hframe.1
  frameBinary := hframe.2
  mendLow := hmend ▸ hs.mendLow
  mendHigh := hmend ▸ hs.mendHigh
  spEven := hsp
  fontIntact hpolicy a ha := by
    rw [hparams] at hpolicy ha ⊢
    have hread : t.readByte a = (s.storeAll ws).readByte a := State.readByte_congr hmem (by simp [hparams]) a
    have hprotected : s.writable a = false := by simp [State.writable, ha, hpolicy]
    rw [hread, State.readByte_storeAll_other s ws a fun _ _ _ => hprotected]
    exact hs.fontIntact hpolicy a ha
  faultKind := hparams ▸ hfault

/-- Recording an allowed fault keeps the invariant, PC and UPD being free. -/
theorem Inv.record {s : State} (hs : Inv s) {f : Fault} (hf : faultAllowed s.params f) (upd : Bool) (pc : Word) :
    Inv { s with upd := upd, pc := pc, fault := some f } :=
  hs.of_writes (ws := []) rfl rfl hs.frameOk rfl hs.spEven (by rintro _ ⟨⟩; exact hf)

theorem Inv.beginStep_advance {s : State} (hs : Inv s) : Inv s.beginStep.advance :=
  hs.of_writes (ws := []) rfl rfl hs.frameOk rfl hs.spEven hs.faultKind

/-- Every instruction keeps the invariant. -/
theorem exec_keeps_inv {i : Instr} {s t : State} (hs : Inv s) (h : exec i s = .next t) : Inv t := by
  obtain ⟨hparams, hmend, hfault⟩ := not_mem_writesOf i
  rcases exec_performs i s t h with ⟨f, hf, rfl⟩ | ha
  · exact hs.record hf s.upd s.pc
  · obtain ⟨ws, hmem⟩ := exec_mem h
    have hsame : t.fault = s.fault := ha .fault hfault
    exact hs.of_writes (ha .params hparams) hmem (exec_frameOk h hs.frameOk) (ha .mend hmend)
      (exec_sp_even h hs.spEven) (hsame ▸ hs.faultKind)

/-- The faults of the fetch check are raised under every choice of parameters. -/
theorem State.faultAllowed_of_fetchCheck {s : State} {f : Fault} (h : s.fetchCheck = some f) (p : Params) :
    faultAllowed p f := by
  unfold State.fetchCheck at h
  split at h
  · cases h; trivial
  · split at h
    · cases h; trivial
    · cases h

/-- Settles O55: a suspended step changes nothing, a failed fetch or an illegal word records a fault, and a decoded
instruction keeps the invariant. -/
theorem everyStepKeepsTheInvariant : Obligations.EveryStepKeepsTheInvariant := by
  intro s t hs h
  rcases step_cases s with ⟨-, hstep⟩ | ⟨-, f, hf, hstep⟩ | ⟨-, -, e, -, hstep⟩ | ⟨-, -, i, -, hstep⟩
  · cases hstep.symm.trans h
    exact hs
  · cases hstep.symm.trans h
    exact hs.record (State.faultAllowed_of_fetchCheck hf _) false s.pc
  · cases hstep.symm.trans h
    exact hs.record (f := unknownOpcodeAt s.fetchWord s.pc) trivial false (s.pc + 2#16)
  · exact exec_keeps_inv hs.beginStep_advance (hstep.symm.trans h)

end Sys2Proof.Machine
end

section
/-! MEM (20_memory.md): the fetch check, data addresses, the font-write policy, the stack region, and that the sparse
form of a memory or a frame is the only one. -/

namespace Sys2Proof.Machine

/-! ## The font-write fault (R80) -/

/-- Under the policy `fault`, the check of the addresses EA(0) to EA(n - 1) names the lowest offset in the font. -/
theorem State.fontHit_range {s : State} {n k : Nat} (hpolicy : s.params.fontWrite = .fault) (hk : k < n)
    (hit : inFont s.params (s.ea k).toNat = true) (before : ∀ j < k, inFont s.params (s.ea j).toNat = false) :
    s.fontHit ((List.range n).map s.ea) = some (s.ea k) := by
  have hfirst : (List.range n).find? ((fun a => inFont s.params a.toNat) ∘ s.ea) = some k :=
    List.find?_range_eq_some.2 ⟨hit, List.mem_range.2 hk, fun j hj => by simp [before j hj]⟩
  rw [State.fontHit, if_pos hpolicy, List.find?_map, hfirst, Option.map_some]

theorem State.bcdWrites_addrs (s : State) (a : Byte) :
    (s.bcdWrites a).map Prod.fst = (List.range 3).map s.ea := rfl

theorem State.regWrites_addrs (s : State) (x : Reg) :
    (s.regWrites x).map Prod.fst = (List.range (x.val + 1)).map s.ea := by
  simp [State.regWrites, offsetsUpTo]

/-- Settles O32: both instructions store at EA(0) upwards, and a checked store that hits the font writes nothing. -/
theorem fontWriteFaultNamesTheLowestOffset : Obligations.FontWriteFaultNamesTheLowestOffset := by
  intro s x k hpolicy hit before
  refine ⟨fun hk => State.checkedStore_of_hit (rest := id) ?_,
    fun hk => State.checkedStore_of_hit (rest := fun u => u.advanceI x) ?_⟩
  · rw [State.bcdWrites_addrs]
    exact State.fontHit_range hpolicy hk hit before
  · rw [State.regWrites_addrs]
    exact State.fontHit_range hpolicy (Nat.lt_succ_of_le hk) hit before

/-! ## Canonical forms (log entry 6) -/

section Canonical
variable {dflt : Nat → Byte} {size : Nat} {m m' : List Host.Cell}

/-- An index that reads as another byte than its unlisted one has an entry with the byte read. -/
theorem mem_of_cellsRead {c : Host.Cell} (h : cellsRead dflt m c.1 = c.2) (hne : c.2 ≠ dflt c.1) : c ∈ m := by
  induction m with
  | nil => exact absurd h.symm hne
  | cons d m ih =>
    by_cases hd : d.1 = c.1
    · have hbyte : d.2 = c.2 := by simpa [cellsRead, hd] using h
      simp [show c = d from Prod.ext hd.symm hbyte.symm]
    · exact List.mem_cons_of_mem d (ih (by simpa [cellsRead, hd] using h))

/-- Where indexes strictly rise, a listed index reads as its byte: no entry hides another. -/
theorem cellsRead_of_mem (h : m.Pairwise fun c d => c.1 < d.1) {c : Host.Cell} (hc : c ∈ m) :
    cellsRead dflt m c.1 = c.2 := by
  induction m with
  | nil => cases hc
  | cons d m ih =>
    obtain ⟨hd, hm⟩ := List.pairwise_cons.1 h
    rcases List.mem_cons.1 hc with rfl | hc
    · simp [cellsRead]
    · simp [cellsRead, Nat.ne_of_lt (hd c hc), ih hm hc]

/-- Every entry of a canonical array is an entry of any array that reads the same below `size`. -/
theorem cellsWf.subset (h : cellsWf dflt size m)
    (hread : ∀ a < size, cellsRead dflt m a = cellsRead dflt m' a) : m ⊆ m' := by
  intro c hc
  obtain ⟨hlt, hne⟩ := h.2 c hc
  exact mem_of_cellsRead ((hread c.1 hlt).symm.trans (cellsRead_of_mem h.1 hc)) hne

/-- A canonical array is determined by what it reads as: both lists have the same entries, and only one order is
rising. -/
theorem cellsWf.ext (h : cellsWf dflt size m) (h' : cellsWf dflt size m')
    (hread : ∀ a < size, cellsRead dflt m a = cellsRead dflt m' a) : m = m' := by
  have hasymm : Std.Asymm fun c d : Host.Cell => c.1 < d.1 := ⟨fun _ _ => Nat.lt_asymm⟩
  exact h.1.eq_of_mem_iff h'.1 fun c =>
    ⟨fun hc => h.subset hread hc, fun hc => h'.subset (fun a ha => (hread a ha).symm) hc⟩

end Canonical

/-- Settles O58: index `a` of a frame is the pixel at row a / 64, column a mod 64. -/
theorem canonicalFormsAreUnique : Obligations.CanonicalFormsAreUnique := by
  refine ⟨fun p m m' h h' => h.ext h', fun fb fb' h h' hread => h.ext h' fun a ha => ?_⟩
  have hindex : pixelIndex (a / 64) (a % 64) = a := Nat.div_add_mod' a 64
  simpa only [fbRead, hindex] using hread (a / 64) (a % 64) (by omega) (by omega)

/-! ## The fetch check (R78) -/

theorem State.fetchCheck_of_outOfRange {s : State} (h : s.pc.toNat < 0x200 ∨ s.mend ≤ s.pc.toNat) :
    s.fetchCheck = some (.fetchOutOfRange s.pc) := if_pos h

theorem State.fetchCheck_of_odd {s : State} (hlow : 0x200 ≤ s.pc.toNat) (hhigh : s.pc.toNat < s.mend)
    (hodd : s.pc.toNat % 2 = 1) : s.fetchCheck = some (.fetchMisaligned s.pc) := by
  rw [State.fetchCheck, if_neg (by omega), if_pos hodd]

/-- A step whose fetch check fails records the fault and clears UPD, and that is all. -/
theorem step_of_fetchCheck {s : State} (hrun : Running s) {f : Fault} (hf : s.fetchCheck = some f) :
    step s = .next { s with upd := false, fault := some f } := by
  rcases step_cases s with ⟨hs, -⟩ | ⟨-, g, hg, hstep⟩ | ⟨-, hnone, -⟩ | ⟨-, hnone, -⟩
  · exact absurd hs (by simp [State.suspended_eq_false.2 hrun])
  · cases hf.symm.trans hg
    exact hstep
  · cases hf.symm.trans hnone
  · cases hf.symm.trans hnone

/-- Settles O9, by the two failures of the fetch check. -/
theorem badFetchFaults : Obligations.BadFetchFaults := by
  intro s hrun
  refine ⟨fun h => step_of_fetchCheck hrun (State.fetchCheck_of_outOfRange h), ?_⟩
  rintro ⟨hlow, hhigh, hodd⟩
  exact step_of_fetchCheck hrun (State.fetchCheck_of_odd hlow hhigh hodd)

/-! ## Data addresses (R81) -/

theorem State.ea_toNat (s : State) (k : Nat) : (s.ea k).toNat = (s.i.toNat + k) % 0x1000 := by
  simp only [State.ea, BitVec.toNat_setWidth, BitVec.toNat_add, BitVec.toNat_ofNat]
  omega

/-- Settles O26: the reduction to 16 bits is absorbed by the one to 12. -/
theorem effectiveAddressWraps : Obligations.EffectiveAddressWraps := State.ea_toNat

/-! ## The stack region (R79) -/

theorem State.pushHigh_toNat (s : State) : s.pushHigh.toNat = s.sp.toNat := by
  simp only [State.pushHigh, BitVec.toNat_setWidth]
  omega

/-- The low byte's address is not reduced mod 256: at SP = 0xFF it is 0x100 (log entry 7). -/
theorem State.pushLow_toNat (s : State) : s.pushLow.toNat = s.sp.toNat + 1 := by
  simp only [State.pushLow, BitVec.toNat_setWidth, BitVec.toNat_add, BitVec.toNat_ofNat]
  omega

theorem inFont_of_lt {p : Params} {a : Nat} (h : a < fontBaseAddr p.fontBase) : inFont p a = false := by
  simp [inFont, Nat.not_le.2 h]

/-- Settles O57: an even SP is at most 0xFE, so SP + 1 is still below 0x100, where the default font begins. -/
theorem pushStaysInTheStackRegion : Obligations.PushStaysInTheStackRegion := by
  intro s hs
  have heven := hs.spEven
  have hlow : s.sp.toNat + 1 < 0x100 := by omega
  rw [State.pushHigh_toNat, State.pushLow_toNat]
  refine ⟨rfl, rfl, hlow, fun hbase => ?_⟩
  have hfont : fontBaseAddr s.params.fontBase = 0x100 := by rw [hbase]; rfl
  exact ⟨inFont_of_lt (by omega), inFont_of_lt (by omega)⟩

end Sys2Proof.Machine
end

section
/-! Instruction encoding (30_encoding.md): decoding undoes encoding, and the decoder's answers against the opcode map
and the illegal spaces. -/

namespace Sys2Proof

/-! ## Decoding an encoded word (R103, R104) -/

/-- Settles O2: each format's fields read back from its word, so op and the minor opcode select the arm and the
operands return. -/
theorem decodeOfEncodeIsTheInstruction : Obligations.DecodeOfEncodeIsTheInstruction := by
  intro i hi
  cases i with
  | cls | ret => decide
  | jp | call | ldI | jpV0 => simp [encode, decodeWord, opField_wordA, nnnField_wordA]
  | seImm | sneImm | ldImm | addImm | rnd =>
    simp [encode, decodeWord, opField_wordXK, xField_wordXK, kkField_wordXK]
  | seReg | sneReg => simp [encode, decodeWord, opField_wordXYN, xField_wordXYN, yField_wordXYN, nField_wordXYN]
  | ldReg | orReg | andReg | xorReg | addReg | subReg | shr | subnReg | shl =>
    simp [encode, decodeWord, decodeOp8, opField_wordXYN, xField_wordXYN, yField_wordXYN, nField_wordXYN]
  | drw x y n =>
    have hn : n < 16 := by simpa [WellFormed, Instr.fits] using hi
    simp [encode, decodeWord, opField_wordXYN, xField_wordXYN, yField_wordXYN, nField_wordXYN, Nat.mod_eq_of_lt hn]
  | skp | sknp => simp [encode, decodeWord, decodeOpE, opField_wordXK, xField_wordXK, kkField_wordXK]
  | ldVxDT | ldVxK | ldDTVx | ldSTVx | addI | ldF | ldB | ldMemVx | ldVxMem =>
    simp [encode, decodeWord, decodeOpF, opField_wordXK, xField_wordXK, kkField_wordXK]

/-! ## Encoding a decoded word (R107) -/

/-- `eq_wordXYN` where n is a minor opcode. -/
theorem eq_wordXYN_of_nField {w : Word} {op n : Nat} (hop : opField w = BitVec.ofNat 4 op) (hlt : op < 0x10)
    (hn : nField w = BitVec.ofNat 4 n) (hnlt : n < 0x10) : wordXYN op (xField w) (yField w) n = w := by
  simpa [hn, Nat.mod_eq_of_lt hnlt] using eq_wordXYN hop hlt

/-- `eq_wordXK` where kk is a minor opcode. -/
theorem eq_wordXK_of_kkField {w : Word} {op : Nat} {kk : Byte} (hop : opField w = BitVec.ofNat 4 op) (hlt : op < 0x10)
    (hkk : kkField w = kk) : wordXK op (xField w) kk = w := hkk ▸ eq_wordXK hop hlt

theorem encode_of_decodeOp0 {w : Word} {i : Instr} (h : decodeOp0 w = .ok i) : WellFormed i ∧ encode i = w := by
  unfold decodeOp0 at h
  split at h
  · cases h; exact ⟨rfl, Eq.symm ‹_›⟩
  · split at h
    · cases h; exact ⟨rfl, Eq.symm ‹_›⟩
    · cases h

/-- The arms of op 8 differ in the minor opcode alone, so one argument serves them all. Likewise those of op E and of
op F. -/
theorem encode_of_decodeOp8 {w : Word} (hop : opField w = 0x8#4) {i : Instr} (h : decodeOp8 w = .ok i) :
    WellFormed i ∧ encode i = w := by
  unfold decodeOp8 at h
  split at h <;> cases h <;> exact ⟨rfl, eq_wordXYN_of_nField hop (by decide) ‹_› (by decide)⟩

theorem encode_of_decodeOpE {w : Word} (hop : opField w = 0xE#4) {i : Instr} (h : decodeOpE w = .ok i) :
    WellFormed i ∧ encode i = w := by
  unfold decodeOpE at h
  split at h <;> cases h <;> exact ⟨rfl, eq_wordXK_of_kkField hop (by decide) ‹_›⟩

theorem encode_of_decodeOpF {w : Word} (hop : opField w = 0xF#4) {i : Instr} (h : decodeOpF w = .ok i) :
    WellFormed i ∧ encode i = w := by
  unfold decodeOpF at h
  split at h <;> cases h <;> exact ⟨rfl, eq_wordXK_of_kkField hop (by decide) ‹_›⟩

/-- A word that decodes is the word of the instruction. The arm `h_1` is op 0, and so on to `h_16` for op F. -/
theorem encode_of_decodeWord {w : Word} {i : Instr} (h : decodeWord w = .ok i) : WellFormed i ∧ encode i = w := by
  unfold decodeWord at h
  split at h
  case h_1 => exact encode_of_decodeOp0 h
  case h_2 | h_3 | h_11 | h_12 => cases h; exact ⟨rfl, eq_wordA ‹_› (by decide)⟩
  case h_4 | h_5 | h_7 | h_8 | h_13 => cases h; exact ⟨rfl, eq_wordXK ‹_› (by decide)⟩
  case h_6 | h_10 =>
    split at h
    · cases h; exact ⟨rfl, eq_wordXYN_of_nField ‹_› (by decide) ‹_› (by decide)⟩
    · cases h
  case h_9 => exact encode_of_decodeOp8 ‹_› h
  case h_14 => cases h; exact ⟨decide_eq_true (nField w).isLt, eq_wordXYN ‹_› (by decide)⟩
  case h_15 => exact encode_of_decodeOpE ‹_› h
  case h_16 => exact encode_of_decodeOpF ‹_› h
  case h_17 => cases h

/-- Settles O3: every arm hands over the fields of its format, and op and those fields make up the word. -/
theorem encodeOfDecodeIsTheWord : Obligations.EncodeOfDecodeIsTheWord := fun _ _ => encode_of_decodeWord

/-! ## The illegal words (R105) -/

/-- The minor opcodes of op 8. -/
def minors8 : List Nibble := [0x0#4, 0x1#4, 0x2#4, 0x3#4, 0x4#4, 0x5#4, 0x6#4, 0x7#4, 0xE#4]

/-- The minor opcodes of op E. -/
def minorsE : List Byte := [0x9E#8, 0xA1#8]

/-- The minor opcodes of op F. -/
def minorsF : List Byte := [0x07#8, 0x0A#8, 0x15#8, 0x18#8, 0x1E#8, 0x29#8, 0x33#8, 0x55#8, 0x65#8]

/-- The five spaces of R105, in the fields the decoder reads. -/
abbrev InIllegalSpace (w : Word) : Prop :=
  (opField w = 0x0#4 ∧ w ≠ 0x00E0#16 ∧ w ≠ 0x00EE#16) ∨
  ((opField w = 0x5#4 ∨ opField w = 0x9#4) ∧ nField w ≠ 0x0#4) ∨
  (opField w = 0x8#4 ∧ nField w ∉ minors8) ∨
  (opField w = 0xE#4 ∧ kkField w ∉ minorsE) ∨
  (opField w = 0xF#4 ∧ kkField w ∉ minorsF)

theorem decodeOp0_eq_error_iff {w : Word} {e : DecodeError} :
    decodeOp0 w = .error e ↔ (w ≠ 0x00E0#16 ∧ w ≠ 0x00EE#16) ∧ e = .unknownOpcode w := by
  unfold decodeOp0
  split
  · simp [*]
  · split <;> simp [*, eq_comm]

theorem decodeOp8_eq_error_iff {w : Word} {e : DecodeError} :
    decodeOp8 w = .error e ↔ nField w ∉ minors8 ∧ e = .unknownOpcode w := by
  unfold decodeOp8
  split
  case h_10 => simp_all [minors8, eq_comm]
  all_goals simp [*, minors8]

theorem decodeOpE_eq_error_iff {w : Word} {e : DecodeError} :
    decodeOpE w = .error e ↔ kkField w ∉ minorsE ∧ e = .unknownOpcode w := by
  unfold decodeOpE
  split
  case h_3 => simp_all [minorsE, eq_comm]
  all_goals simp [*, minorsE]

theorem decodeOpF_eq_error_iff {w : Word} {e : DecodeError} :
    decodeOpF w = .error e ↔ kkField w ∉ minorsF ∧ e = .unknownOpcode w := by
  unfold decodeOpF
  split
  case h_10 => simp_all [minorsF, eq_comm]
  all_goals simp [*, minorsF]

/-- The decoder rejects exactly the words of the five spaces, each with itself. The arm `h_1` is op 0, and so on to
`h_16` for op F; `h_17` is never taken. -/
theorem decodeWord_eq_error_iff {w : Word} {e : DecodeError} :
    decodeWord w = .error e ↔ InIllegalSpace w ∧ e = .unknownOpcode w := by
  unfold decodeWord
  split
  case h_1 hop => simp [InIllegalSpace, hop, decodeOp0_eq_error_iff]
  case h_9 hop => simp [InIllegalSpace, hop, decodeOp8_eq_error_iff]
  case h_15 hop => simp [InIllegalSpace, hop, decodeOpE_eq_error_iff]
  case h_16 hop => simp [InIllegalSpace, hop, decodeOpF_eq_error_iff]
  case h_6 hop | h_10 hop => split <;> simp [InIllegalSpace, *, eq_comm (a := e)]
  case h_17 =>
    exfalso
    generalize opField w = op at *
    revert op; decide
  all_goals simp [InIllegalSpace, *]

theorem not_mem_minors8_iff (n : Nibble) : n ∉ minors8 ↔ n.toNat ∈ [0x8, 0x9, 0xA, 0xB, 0xC, 0xD, 0xF] := by
  revert n; decide

theorem mem_minorsE_iff (kk : Byte) : kk ∈ minorsE ↔ kk.toNat ∈ [0x9E, 0xA1] := by
  simp [minorsE, ← BitVec.toNat_inj]

theorem mem_minorsF_iff (kk : Byte) :
    kk ∈ minorsF ↔ kk.toNat ∈ [0x07, 0x0A, 0x15, 0x18, 0x1E, 0x29, 0x33, 0x55, 0x65] := by
  simp [minorsF, ← BitVec.toNat_inj]

/-- Settles O5: the spaces of `InIllegalSpace`, with each field written as a number. -/
theorem illegalWordsAreTheListedSpaces : Obligations.IllegalWordsAreTheListedSpaces := by
  intro w
  rw [decodeWord_eq_error_iff, and_iff_left rfl, InIllegalSpace]
  simp only [not_mem_minors8_iff, mem_minorsE_iff, mem_minorsF_iff, opField_toNat, nField_toNat, kkField_toNat,
    ne_eq, ← BitVec.toNat_inj, BitVec.reduceToNat]

/-! ## The opcode map (R104) -/

/-- Two rows select a common word only where their patterns agree under both masks. -/
theorem OpcodeRow.pattern_and_mask {r r' : OpcodeRow} {w : Word} (h : r.selects w = true) (h' : r'.selects w = true) :
    r.pattern &&& r'.mask = r'.pattern &&& r.mask := by
  rw [← eq_of_beq h, ← eq_of_beq h', BitVec.and_assoc, BitVec.and_assoc, BitVec.and_comm r.mask]

/-- Any two rows of the map differ in a bit that both masks keep. -/
theorem opcodeRows_disjoint : opcodeRows.Pairwise fun r r' => r.pattern &&& r'.mask ≠ r'.pattern &&& r.mask := by
  decide

/-- No word selects two rows. -/
theorem length_filter_selects_le_one (w : Word) : (opcodeRows.filter fun r => r.selects w).length ≤ 1 := by
  have hpair : (opcodeRows.filter fun r => r.selects w).Pairwise fun _ _ => False :=
    List.pairwise_filter.2 (opcodeRows_disjoint.imp fun hne h h' => hne (OpcodeRow.pattern_and_mask h h'))
  by_contra hlen
  exact List.pairwise_iff_getElem.1 hpair 0 1 (by omega) (by omega) Nat.zero_lt_one

open Laws in
/-- Every instruction's own row is in the map and selects its word. -/
theorem rowMatch : ∀ i : Instr, RowMatch.Statement i
  | .cls => RowMatch.cls
  | .ret => RowMatch.ret
  | .jp nnn => RowMatch.jp nnn
  | .call nnn => RowMatch.call nnn
  | .seImm x kk => RowMatch.seImm x kk
  | .sneImm x kk => RowMatch.sneImm x kk
  | .seReg x y => RowMatch.seReg x y
  | .ldImm x kk => RowMatch.ldImm x kk
  | .addImm x kk => RowMatch.addImm x kk
  | .ldReg x y => RowMatch.ldReg x y
  | .orReg x y => RowMatch.orReg x y
  | .andReg x y => RowMatch.andReg x y
  | .xorReg x y => RowMatch.xorReg x y
  | .addReg x y => RowMatch.addReg x y
  | .subReg x y => RowMatch.subReg x y
  | .shr x y => RowMatch.shr x y
  | .subnReg x y => RowMatch.subnReg x y
  | .shl x y => RowMatch.shl x y
  | .sneReg x y => RowMatch.sneReg x y
  | .ldI nnn => RowMatch.ldI nnn
  | .jpV0 nnn => RowMatch.jpV0 nnn
  | .rnd x kk => RowMatch.rnd x kk
  | .drw x y n => RowMatch.drw x y n
  | .skp x => RowMatch.skp x
  | .sknp x => RowMatch.sknp x
  | .ldVxDT x => RowMatch.ldVxDT x
  | .ldVxK x => RowMatch.ldVxK x
  | .ldDTVx x => RowMatch.ldDTVx x
  | .ldSTVx x => RowMatch.ldSTVx x
  | .addI x => RowMatch.addI x
  | .ldF x => RowMatch.ldF x
  | .ldB x => RowMatch.ldB x
  | .ldMemVx x => RowMatch.ldMemVx x
  | .ldVxMem x => RowMatch.ldVxMem x

section Selects
variable {r : OpcodeRow} {w : Word} (h : r.selects w = true)
include h

/-- Bits that a row's mask keeps whole are the pattern's in every word the row selects. -/
theorem OpcodeRow.extractLsb'_of_selects {i n : Nat} (hm : r.mask.extractLsb' i n = BitVec.allOnes n) :
    w.extractLsb' i n = r.pattern.extractLsb' i n := by
  rw [← eq_of_beq h, BitVec.extractLsb'_and, hm, BitVec.and_allOnes]

theorem OpcodeRow.eq_pattern_of_selects (hm : r.mask = BitVec.allOnes 16) : w = r.pattern := by
  rw [← eq_of_beq h, hm, BitVec.and_allOnes]

theorem OpcodeRow.opField_of_selects (hm : opField r.mask = BitVec.allOnes 4) : opField w = opField r.pattern :=
  OpcodeRow.extractLsb'_of_selects h hm

theorem OpcodeRow.nField_of_selects (hm : nField r.mask = BitVec.allOnes 4) : nField w = nField r.pattern :=
  OpcodeRow.extractLsb'_of_selects h hm

theorem OpcodeRow.kkField_of_selects (hm : kkField r.mask = BitVec.allOnes 8) : kkField w = kkField r.pattern :=
  OpcodeRow.extractLsb'_of_selects h hm

end Selects

/-- What the table says of each row: the mask keeps op, and the minor opcode where op has one, and the pattern lies in
none of the illegal spaces. -/
theorem opcodeRows_masks : ∀ r ∈ opcodeRows,
    opField r.mask = BitVec.allOnes 4 ∧
    (opField r.pattern = 0x0#4 → r.mask = BitVec.allOnes 16) ∧
    (opField r.pattern = 0x5#4 ∨ opField r.pattern = 0x9#4 → nField r.mask = BitVec.allOnes 4) ∧
    (opField r.pattern = 0x8#4 → nField r.mask = BitVec.allOnes 4) ∧
    (opField r.pattern = 0xE#4 → kkField r.mask = BitVec.allOnes 8) ∧
    (opField r.pattern = 0xF#4 → kkField r.mask = BitVec.allOnes 8) ∧
    ¬ InIllegalSpace r.pattern := by
  decide

/-- A row that selects a word of an illegal space would have its pattern in the same space. -/
theorem not_inIllegalSpace_of_selects {r : OpcodeRow} (hr : r ∈ opcodeRows) {w : Word} (h : r.selects w = true) :
    ¬ InIllegalSpace w := by
  obtain ⟨hop, h0, h59, h8, hE, hF, hlisted⟩ := opcodeRows_masks r hr
  intro hw
  rw [InIllegalSpace, OpcodeRow.opField_of_selects h hop] at hw
  apply hlisted
  rcases hw with ⟨ho, hne⟩ | ⟨ho, hne⟩ | ⟨ho, hne⟩ | ⟨ho, hne⟩ | ⟨ho, hne⟩
  · exact .inl ⟨ho, OpcodeRow.eq_pattern_of_selects h (h0 ho) ▸ hne⟩
  · exact .inr (.inl ⟨ho, OpcodeRow.nField_of_selects h (h59 ho) ▸ hne⟩)
  · exact .inr (.inr (.inl ⟨ho, OpcodeRow.nField_of_selects h (h8 ho) ▸ hne⟩))
  · exact .inr (.inr (.inr (.inl ⟨ho, OpcodeRow.kkField_of_selects h (hE ho) ▸ hne⟩)))
  · exact .inr (.inr (.inr (.inr ⟨ho, OpcodeRow.kkField_of_selects h (hF ho) ▸ hne⟩)))

/-- Settles O4: the rows are disjoint, an accepted word is its instruction's and so selected by that instruction's row,
and a rejected word lies in a space no row selects from. -/
theorem decodeFollowsTheOpcodeMap : Obligations.DecodeFollowsTheOpcodeMap := by
  intro w
  refine ⟨length_filter_selects_le_one w, fun i hi => ?_, fun e he => ?_⟩
  · obtain ⟨r, hr, hmnemonic, hsel⟩ := rowMatch i
    exact ⟨r, hr, (encode_of_decodeWord hi).2 ▸ hsel, hmnemonic⟩
  · obtain ⟨hw, rfl⟩ := decodeWord_eq_error_iff.1 he
    exact ⟨rfl, fun r hr => Bool.eq_false_iff.2 fun hsel => not_inIllegalSpace_of_selects hr hsel hw⟩

/-! ## Sample words (R104, R106) -/

/-- Settles O1, by running the decoder on each word. -/
theorem sampleWordsDecode : Obligations.SampleWordsDecode := by
  unfold Obligations.SampleWordsDecode
  decide

end Sys2Proof

namespace Sys2Proof.Machine

/-! ## The step on an illegal word (R105) -/

/-- Settles O11: of the four ways a step can go, only the rejection by the decoder is open. -/
theorem illegalWordFaults : Obligations.IllegalWordFaults := by
  rintro s w ⟨hfault, hwait⟩ hlow hhigh heven rfl hillegal
  have hsusp : s.suspended = false := State.suspended_eq_false.2 ⟨hfault, hwait⟩
  have hfetch : s.fetchCheck = none := State.fetchCheck_eq_none.2 ⟨hlow, hhigh, heven⟩
  rcases step_cases s with ⟨hs, -⟩ | ⟨-, f, hf, -⟩ | ⟨-, -, e, -, hstep⟩ | ⟨-, -, i, hi, -⟩
  · cases hsusp.symm.trans hs
  · cases hfetch.symm.trans hf
  · exact hstep
  · exact absurd hi (hillegal i)

end Sys2Proof.Machine
end

section
/-! The execution cycle (40_execution_cycle.md): how a step goes, what each host call can change, and the runs that the
host's calls make. -/

namespace Sys2Proof.Machine

/-! ## Halted and waiting machines (R131) -/

theorem State.suspended_iff {s : State} : s.suspended = true ↔ s.fault ≠ none ∨ s.wait ≠ none := by
  simp [State.suspended, Option.isSome_iff_ne_none]

theorem step_of_suspended {s : State} (h : s.suspended = true) : step s = .next s := if_pos h

/-- Settles O7: a set FAULT or WAIT is what suspends a step. -/
theorem suspendedStepChangesNothing : Obligations.SuspendedStepChangesNothing :=
  fun _ h => step_of_suspended (State.suspended_iff.2 h)

/-! ## The fetch and the decode (R133, R134) -/

/-- A running machine runs the instruction that the word at a legal PC decodes to. -/
theorem step_of_decode {s : State} {i : Instr} (hrun : Running s) (hfetch : s.fetchCheck = none)
    (hi : decodeWord s.fetchWord = .ok i) : step s = exec i s.beginStep.advance := by
  rcases step_cases s with ⟨hs, -⟩ | ⟨-, f, hf, -⟩ | ⟨-, -, e, he, -⟩ | ⟨-, -, j, hj, hstep⟩
  · exact absurd hs (by simp [State.suspended_eq_false.2 hrun])
  · cases hfetch.symm.trans hf
  · cases hi.symm.trans he
  · cases hi.symm.trans hj
    exact hstep

/-- Settles O6: the conditions on PC are the fetch check's, and the big-endian word at PC is the fetched one. -/
theorem stepRunsTheDecodedInstruction : Obligations.StepRunsTheDecodedInstruction :=
  fun _ _ hrun hlow hhigh heven hi => step_of_decode hrun (State.fetchCheck_eq_none.2 ⟨hlow, hhigh, heven⟩) hi

/-! ## Every step answers (R135) -/

theorem State.checkedStore_answers (s : State) (ws : List (Addr × Byte)) (rest : State → State) :
    ∃ t : State, s.checkedStore ws rest = .next t := by
  cases h : s.fontHit (ws.map Prod.fst) with
  | some a => exact ⟨_, State.checkedStore_of_hit h⟩
  | none => exact ⟨_, State.checkedStore_of_clear h⟩

/-- Every instruction answers a next state: by its one arm, or on both sides of its guard. -/
theorem exec_answers (i : Instr) (s : State) : ∃ t : State, exec i s = .next t := by
  cases i with
  | call nnn =>
    simp only [exec, execCall]
    split
    · exact ⟨_, rfl⟩
    · exact s.checkedStore_answers _ _
  | ldB x => exact s.checkedStore_answers (s.bcdWrites (s.reg x)) id
  | ldMemVx x => exact s.checkedStore_answers (s.regWrites x) fun t => t.advanceI x
  | ret => simp only [exec, execRet]; split <;> exact ⟨_, rfl⟩
  | skp x => simp only [exec, execSkp]; split <;> exact ⟨_, rfl⟩
  | sknp x => simp only [exec, execSknp]; split <;> exact ⟨_, rfl⟩
  | ldF x => simp only [exec, execLdF]; split <;> exact ⟨_, rfl⟩
  | _ => exact ⟨_, rfl⟩

/-- Settles O12: only a decoded instruction could answer anything else, and none does. -/
theorem everyStepAnswersANextState : Obligations.EveryStepAnswersANextState := by
  intro s
  rcases step_cases s with ⟨-, hstep⟩ | ⟨-, f, -, hstep⟩ | ⟨-, -, e, -, hstep⟩ | ⟨-, -, i, -, hstep⟩
  · exact ⟨_, hstep⟩
  · exact ⟨_, hstep⟩
  · exact ⟨_, hstep⟩
  · rw [hstep]
    exact exec_answers i _

/-! ## UPD (R132) -/

/-- What UPD was makes no difference to a running machine's step. -/
theorem step_beginStep {s : State} (hrun : Running s) : step s.beginStep = step s := by
  have hs : s.suspended = false := State.suspended_eq_false.2 hrun
  have hb : s.beginStep.suspended = false := hs
  simp only [step, hs, hb]
  rfl

theorem display_of_upd_mem_writesOf {i : Instr} (h : .upd ∈ writesOf i) : i = .cls ∨ ∃ x y n, i = .drw x y n := by
  cases i <;> simp_all [writesOf]

/-- Settles O8: a step begins by clearing UPD, and only the display instructions write it. -/
theorem stepClearsUpdFirst : Obligations.StepClearsUpdFirst := by
  intro s hrun
  refine ⟨(step_beginStep hrun).symm, fun t ht hupd => ?_⟩
  rcases step_cases s with ⟨hs, -⟩ | ⟨-, f, -, hstep⟩ | ⟨-, -, e, -, hstep⟩ | ⟨-, -, i, hi, hstep⟩
  · exact absurd hs (by simp [State.suspended_eq_false.2 hrun])
  · cases hstep.symm.trans ht
    cases hupd
  · cases hstep.symm.trans ht
    cases hupd
  · have hwrites : .upd ∈ writesOf i := by
      by_contra hn
      have hkept : t.upd = false := exec_agree (hstep.symm.trans ht) .upd (by simp [hn])
      cases hupd.symm.trans hkept
    simpa [hi] using display_of_upd_mem_writesOf hwrites

/-! ## finished() (R140, R141) -/

theorem State.finished_iff {s : State} : s.finished = true ↔ s.pc.toNat = s.mend := by simp [State.finished]

/-- Settles O50: the call answers `State.finished`, which compares the two. -/
theorem finishedIsPcAtMend : Obligations.FinishedIsPcAtMend := fun s => ⟨s.finished, rfl, State.finished_iff⟩

/-- Settles O10: PC at MEND is out of the fetch range. -/
theorem stepWhileFinishedFaults : Obligations.StepWhileFinishedFaults :=
  fun _ hrun hfin => step_of_fetchCheck hrun (State.fetchCheck_of_outOfRange (.inr (State.finished_iff.1 hfin).ge))

/-! ## The placed word (log entry 9) -/

theorem joinBytes_highByte_lowByte (w : Word) : joinBytes (highByte w) (lowByte w) = w := by
  rw [joinBytes, highByte, lowByte, BitVec.setWidth_eq_extractLsb' (by decide),
    BitVec.extractLsb'_append_extractLsb'_eq_extractLsb' (show 8 = 0 + 8 from rfl), BitVec.extractLsb'_eq_self]

/-- The table's decoder reads the word itself. -/
theorem decodeWord_of_decodeTableWord {n w : Nat} {i : Instr} (h : decodeTableWord n w = some i) :
    decodeWord (BitVec.ofNat 16 (w % 2 ^ n)) = .ok i := by
  simp only [decodeTableWord, decode, joinBytes_highByte_lowByte] at h
  cases hd : decodeWord (BitVec.ofNat 16 (w % 2 ^ n)) with
  | ok j => simpa [hd] using h
  | error e => simp [hd] at h

/-- A fetch can start at the PC of a placed word: it stayed only where one could. -/
theorem State.fetchable_withProgramWord (s : State) (w : Word) : fetchable (s.withProgramWord w).pc = true := by
  simp only [State.withProgramWord, State.writeRaw_pc]
  split
  next h => exact h
  next => rfl

theorem State.pc_lt_mend_withProgramWord (s : State) (w : Word) :
    (s.withProgramWord w).pc.toNat < (s.withProgramWord w).mend := by
  simp only [State.withProgramWord, State.writeRaw_pc, State.writeRaw_mend]
  generalize (if fetchable s.pc then s.pc else 0x200#16) = pc
  split <;> omega

theorem State.fetchCheck_withProgramWord (s : State) (w : Word) : (s.withProgramWord w).fetchCheck = none := by
  have hpc := s.fetchable_withProgramWord w
  simp only [fetchable, Bool.and_eq_true, decide_eq_true_eq, beq_iff_eq] at hpc
  obtain ⟨⟨hlow, -⟩, heven⟩ := hpc
  exact State.fetchCheck_eq_none.2 ⟨hlow, s.pc_lt_mend_withProgramWord w, heven⟩

theorem low12_ne_low12_succ (a : Word) : low12 a ≠ low12 (a + 1#16) := by bv_omega

/-- The two bytes of the word lie at different addresses, so both are read back. -/
theorem State.fetchWord_withProgramWord (s : State) (w : Word) : (s.withProgramWord w).fetchWord = w := by
  simp only [State.fetchWord, State.readWord, State.withProgramWord, State.writeRaw_pc, State.readByte_writeRaw,
    low12_ne_low12_succ, if_true, if_false, joinBytes_highByte_lowByte]

/-- Settles O59: the placed word passes the fetch check, is read back whole, and decodes as the table's does. -/
theorem placedWordRunsNext : Obligations.PlacedWordRunsNext := by
  intro s w i hi
  refine step_of_decode ⟨rfl, rfl⟩ (s.fetchCheck_withProgramWord _) ?_
  rw [State.withFetchWord, State.fetchWord_withProgramWord]
  exact decodeWord_of_decodeTableWord hi

/-! ## What each call can change (R150, R152, R154) -/

theorem Agree.refl (l : List Part) (s : State) : Agree l s s := by simp [agree_iff]

/-- load takes what fits and copies it in, or is refused (70_reset_and_hazards.md R382, R383). -/
theorem State.load_eq_some {s t : State} {bytes : List Byte} :
    s.load bytes = some t ↔
      bytes.length ≤ 0xE00 ∧ t = { s.copyIn 0x200 bytes with mend := 0x200 + bytes.length } := by
  unfold State.load maxRomLen
  split
  next h => simp [Nat.not_le.2 h]
  next h => simp [Nat.not_lt.1 h, eq_comm]

theorem State.load_agree {s t : State} {bytes : List Byte} (h : s.load bytes = some t) : Agree [.mem, .mend] s t := by
  obtain ⟨-, rfl⟩ := State.load_eq_some.1 h
  rw [State.copyIn_eq]
  simp [agree_iff]

theorem State.call_load_agree (s : State) (bytes : List Byte) : Agree [.mem, .mend] s (s.call (.load bytes)).1 := by
  simp only [State.call]
  split
  next t h => exact State.load_agree h
  next => exact .refl _ s

theorem State.call_tickTimers_agree (s : State) : Agree [.dt, .st] s (s.call .tickTimers).1 := by
  simp only [State.call, State.tickTimers]
  split
  · exact .refl _ s
  · simp [agree_iff]

theorem State.deliverKey_agree (s : State) (k : Key) : Agree [.v, .wait] s (s.deliverKey k) := by
  unfold State.deliverKey
  split
  · exact .refl _ s
  · split
    · simp [agree_iff]
    · exact .refl _ s

theorem State.call_deliverKey_agree (s : State) (k : Nat) : Agree [.v, .wait] s (s.call (.deliverKey k)).1 := by
  simp only [State.call]
  split
  · exact s.deliverKey_agree _
  · exact .refl _ s

theorem State.call_writeKEY_agree (s : State) (k : Key) (down : Bool) :
    Agree [.key] s (s.call (.writeKEY k down)).1 := by
  simp [agree_iff, State.call, State.writeKey]

theorem State.keyDown_writeKey (s : State) (k j : Key) (down : Bool) :
    (s.writeKey k down).keyDown j = if j = k then down else s.keyDown j := by
  simp only [State.keyDown, State.writeKey, Vector.get_eq_getElem, Vector.getElem_set, Fin.ext_iff, eq_comm]

theorem State.length_frame (s : State) : s.frame.length = 2048 := by simp [State.frame]

/-- The frame is row-major: pixel (y, x) is its byte y * 64 + x (10_state.md R46). -/
theorem State.frame_getElem? (s : State) {y x : Nat} (hy : y < 32) (hx : x < 64) :
    s.frame[y * 64 + x]? = some (s.pixel y x) := by
  have hlt : y * 64 + x < 2048 := by omega
  simp [State.frame, hlt, State.pixel, fbRead, pixelIndex]

/-- Settles O52, call by call. -/
theorem hostCallFrames : Obligations.HostCallFrames := fun s bytes k q down =>
  ⟨(s.call_load_agree bytes).unchanged (by simp), s.call_tickTimers_agree.unchanged (by simp),
    (s.call_deliverKey_agree k).unchanged (by simp), (s.call_writeKEY_agree q down).unchanged (by simp),
    fun j => s.keyDown_writeKey q j down, rfl, rfl, rfl, ⟨s.key, rfl, fun _ => rfl⟩, rfl,
    s.frame, rfl, s.length_frame, fun _ _ => s.frame_getElem?⟩

/-! ## The invariant under every call (R151) -/

/-- The invariant does not speak of the registers, the timers, the keys, a wait, UPD or the draws. -/
theorem Inv.of_agree {s t : State} (hs : Inv s)
    (h : Agree [.v, .i, .pc, .dt, .st, .key, .wait, .upd, .draws] s t) : Inv t := by
  obtain ⟨hparams, hmem, -, -, -, hsp, -, -, -, -, hfb, -, hmend, hfault, -⟩ := agree_iff.1 h
  have hfb := hfb (by simp)
  have hsp := hsp (by simp)
  have hfault := hfault (by simp)
  exact hs.of_writes (ws := []) (hparams (by simp)) (hmem (by simp)) (hfb ▸ hs.frameOk) (hmend (by simp))
    (hsp ▸ hs.spEven) (hfault ▸ hs.faultKind)

/-- load's copy leaves the bytes below where it starts, if it does not wrap. -/
theorem State.readByte_copyIn_of_lt {s : State} {base : Nat} {bytes : List Byte} {a : Addr}
    (hfits : base + bytes.length ≤ 0x1000) (ha : a.toNat < base) : (s.copyIn base bytes).readByte a = s.readByte a := by
  induction bytes generalizing s base with
  | nil => rfl
  | cons b bs ih =>
    rw [List.length_cons] at hfits
    have hne : a ≠ BitVec.ofNat 12 base := by
      rintro rfl
      rw [BitVec.toNat_ofNat] at ha
      omega
    rw [State.copyIn, ih (by omega) (by omega), State.readByte_writeRaw, if_neg hne]

theorem lt_0x200_of_inFont {p : Params} {a : Nat} (h : inFont p a = true) : a < 0x200 := by
  have hbase : fontBaseAddr p.fontBase ≤ 0x100 := by cases p.fontBase <;> decide
  simp only [inFont, Bool.and_eq_true, decide_eq_true_eq] at h
  omega

/-- load's bytes end by 0x1000 and begin above the font (70_reset_and_hazards.md R382). -/
theorem Inv.load {s t : State} {bytes : List Byte} (hs : Inv s) (h : s.load bytes = some t) : Inv t := by
  have hagree := State.load_agree h
  obtain ⟨hlen, rfl⟩ := State.load_eq_some.1 h
  have hparams : (s.copyIn 0x200 bytes).params = s.params := hagree .params (by simp)
  have hsp : (s.copyIn 0x200 bytes).sp = s.sp := hagree .sp (by simp)
  have hfb : (s.copyIn 0x200 bytes).fb = s.fb := hagree .fb (by simp)
  have hfault : (s.copyIn 0x200 bytes).fault = s.fault := hagree .fault (by simp)
  exact {
    memWf := by simpa only [hparams] using Memory.wf_copyIn hs.memWf 0x200 bytes
    frameWf := hfb ▸ hs.frameWf
    frameBinary := by simpa only [State.pixel, hfb] using hs.frameBinary
    mendLow := Nat.le_add_right _ _
    mendHigh := Nat.add_le_add_left hlen 0x200
    spEven := hsp ▸ hs.spEven
    fontIntact := fun hpolicy a ha => by
      rw [hparams] at hpolicy ha ⊢
      have hread : (s.copyIn 0x200 bytes).readByte a = s.readByte a :=
        State.readByte_copyIn_of_lt (Nat.add_le_add_left hlen 0x200) (lt_0x200_of_inFont ha)
      exact hread.trans (hs.fontIntact hpolicy a ha)
    faultKind := by simpa only [hparams, hfault] using hs.faultKind }

/-- A byte reboot does not keep reads as construction left it (70_reset_and_hazards.md R384). -/
theorem State.readByte_reboot (s : State) (a : Addr) :
    s.reboot.readByte a = if s.rebootKeeps a.toNat then s.readByte a else unlisted s.params a.toNat :=
  cellsRead_filter s.mem s.rebootKeeps a.toNat

/-- reboot keeps the font. -/
theorem Inv.reboot {s : State} (hs : Inv s) : Inv s.reboot where
  memWf := Memory.wf_reboot hs.memWf
  frameWf := Frame.wf_nil
  frameBinary _ _ _ _ := .inl rfl
  mendLow := hs.mendLow
  mendHigh := hs.mendHigh
  spEven := rfl
  fontIntact hpolicy a ha := by
    have hfont : inFont s.params a.toNat = true := ha
    rw [State.readByte_reboot, if_pos (by simp [State.rebootKeeps, hfont])]
    exact hs.fontIntact hpolicy a hfont
  faultKind _ hf := nomatch hf

/-- The host's step takes the state that `step` answers. -/
theorem State.step_eq_callStep (s : State) : step s = .next (s.call .step).1 := by
  obtain ⟨t, ht⟩ := everyStepAnswersANextState s
  simp [State.call, State.callStep, ht]

/-- Every host call keeps the invariant. -/
theorem Inv.call {s : State} (hs : Inv s) (c : HostCall) : Inv (s.call c).1 := by
  cases c with
  | load bytes =>
    simp only [State.call]
    split
    next t h => exact hs.load h
    next => exact hs
  | step => exact everyStepKeepsTheInvariant s _ hs s.step_eq_callStep
  | tickTimers => exact hs.of_agree (s.call_tickTimers_agree.widen (by simp))
  | deliverKey k => exact hs.of_agree ((s.call_deliverKey_agree k).widen (by simp))
  | reboot => exact hs.reboot
  | writeKEY k down => exact hs.of_agree ((s.call_writeKEY_agree k down).widen (by simp))
  | _ => exact hs

theorem step_params {s t : State} (h : step s = .next t) : t.params = s.params := by
  rcases step_cases s with ⟨-, hstep⟩ | ⟨-, f, -, hstep⟩ | ⟨-, -, e, -, hstep⟩ | ⟨-, -, i, -, hstep⟩
  · cases hstep.symm.trans h; rfl
  · cases hstep.symm.trans h; rfl
  · cases hstep.symm.trans h; rfl
  · exact exec_agree (hstep.symm.trans h) .params (by simp [not_mem_writesOf])

/-- No call changes the parameters (70_reset_and_hazards.md R380). -/
theorem State.call_params (s : State) (c : HostCall) : (s.call c).1.params = s.params := by
  cases c with
  | load bytes => exact s.call_load_agree bytes .params (by simp)
  | step => exact step_params s.step_eq_callStep
  | tickTimers => exact s.call_tickTimers_agree .params (by simp)
  | deliverKey k => exact s.call_deliverKey_agree k .params (by simp)
  | _ => rfl

/-- Settles O56: construction establishes the invariant and the parameters, and every call keeps both. -/
theorem everyReachableStateMeetsTheInvariant : Obligations.EveryReachableStateMeetsTheInvariant := by
  refine ⟨fun s c hs => hs.call c, fun p s hr => ?_⟩
  induction hr with
  | constructed => exact ⟨.construct p, rfl⟩
  | called c _ ih =>
    obtain ⟨hinv, hparams⟩ := ih
    exact ⟨hinv.call c, (State.call_params _ c).trans hparams⟩

/-! ## A jump to its own address (R142) -/

/-- A running machine at a 1nnn that jumps to where it stands. -/
structure SelfJump (s : State) : Prop where
  running : Running s
  fetches : s.fetchCheck = none
  inMemory : s.pc.toNat < 0x1000
  jumps : decodeWord s.fetchWord = .ok (.jp (low12 s.pc))

/-- Neither the fetch nor the markers rest on the timers, the keys or UPD. -/
theorem SelfJump.of_agree {s t : State} (hs : SelfJump s) (h : Agree [.dt, .st, .key, .upd] s t) : SelfJump t := by
  have hparams : t.params = s.params := h .params (by simp)
  have hmem : t.mem = s.mem := h .mem (by simp)
  have hpc : t.pc = s.pc := h .pc (by simp)
  have hwait : t.wait = s.wait := h .wait (by simp)
  have hmend : t.mend = s.mend := h .mend (by simp)
  have hfault : t.fault = s.fault := h .fault (by simp)
  have hcheck : t.fetchCheck = s.fetchCheck := by simp only [State.fetchCheck, hpc, hmend]
  have hword : t.fetchWord = s.fetchWord := by
    simp only [State.fetchWord, State.readWord, hpc, State.readByte_congr hmem hparams]
  exact ⟨⟨hfault.trans hs.running.1, hwait.trans hs.running.2⟩, hcheck.trans hs.fetches, hpc ▸ hs.inMemory,
    by rw [hword, hpc]; exact hs.jumps⟩

theorem absolute_low12 {pc : Word} (h : pc.toNat < 0x1000) : absolute (low12 pc) = pc := by
  apply BitVec.eq_of_toNat_eq
  simp only [absolute, BitVec.toNat_setWidth]
  omega

/-- Its step clears UPD, and that is all. -/
theorem SelfJump.step_eq {s : State} (hs : SelfJump s) : step s = .next s.beginStep := by
  rw [step_of_decode hs.running hs.fetches hs.jumps]
  show Host.Outcome.next { s.beginStep.advance with pc := absolute (low12 s.pc) } = _
  rw [absolute_low12 hs.inMemory]
  rfl

/-- No key is awaited, so one delivered changes nothing. -/
theorem State.deliverKey_of_wait_eq_none {s : State} (h : s.wait = none) (k : Key) : s.deliverKey k = s := by
  simp [State.deliverKey, h]

theorem SelfJump.call {s : State} (hs : SelfJump s) {c : HostCall} (hc : c.keepsProgram = true) :
    SelfJump (s.call c).1 := by
  cases c with
  | load | reboot => cases hc
  | step =>
    have hcall : (s.call .step).1 = s.beginStep := by
      simpa using s.step_eq_callStep.symm.trans hs.step_eq
    rw [hcall]
    exact hs.of_agree (by simp [agree_iff])
  | tickTimers => exact hs.of_agree (s.call_tickTimers_agree.widen (by simp))
  | deliverKey k =>
    simp only [State.call]
    split
    · rwa [State.deliverKey_of_wait_eq_none hs.running.2]
    · exact hs
  | writeKEY k down => exact hs.of_agree ((s.call_writeKEY_agree k down).widen (by simp))
  | _ => exact hs

theorem SelfJump.not_ended {s : State} (hs : SelfJump s) : ¬ EndsFinished s ∧ ¬ EndsFaulted s ∧ ¬ EndsWaiting s := by
  obtain ⟨hfault, hwait⟩ := hs.running
  obtain ⟨-, hhigh, -⟩ := State.fetchCheck_eq_none.1 hs.fetches
  exact ⟨fun h => absurd (State.finished_iff.1 h.1) hhigh.ne, fun h => h hfault, fun h => h.1 hwait⟩

/-- Settles O60: every call that keeps the program leaves the machine at its self-jump. -/
theorem jumpToItselfNeverEnds : Obligations.JumpToItselfNeverEnds := by
  intro s run hrun hlow hhigh heven hmem hjumps hkeeps k
  have start : SelfJump s := ⟨hrun, State.fetchCheck_eq_none.2 ⟨hlow, hhigh, heven⟩, hmem, hjumps⟩
  exact (State.afterCalls_keeps start (fun k t ht => ht.call (hkeeps k)) k).not_ended

end Sys2Proof.Machine
end

section
/-! Control flow (41_control_flow.md): jumps and skips, and the stack's push and pop with their guards. -/

namespace Sys2Proof

/-! ## Words under the masks of R104 -/

theorem wordA_and_F000 {op : Nat} (h : op < 0x10) (nnn : Addr) :
    wordA op nnn &&& 0xF000#16 = (BitVec.ofNat 4 op).setWidth 16 <<< 12 := by
  rw [and_mask_F000, opField_wordA h]

theorem wordXK_and_F000 {op : Nat} (h : op < 0x10) (x : Reg) (kk : Byte) :
    wordXK op x kk &&& 0xF000#16 = (BitVec.ofNat 4 op).setWidth 16 <<< 12 := by
  rw [and_mask_F000, opField_wordXK h]

theorem wordXYN_and_F00F {op : Nat} (h : op < 0x10) (x y : Reg) (n : Nat) :
    wordXYN op x y n &&& 0xF00F#16 =
      ((BitVec.ofNat 4 op).setWidth 16 <<< 12) ||| (BitVec.ofNat 4 n).setWidth 16 := by
  rw [and_mask_F00F, opField_wordXYN h, nField_wordXYN h]

/-- Mask F000 keeps op whole. -/
theorem opField_and_F000 (w : Word) : opField (w &&& 0xF000#16) = opField w := by
  rw [opField, BitVec.extractLsb'_and, show (0xF000#16).extractLsb' 12 4 = BitVec.allOnes 4 from rfl,
    BitVec.and_allOnes, opField]

/-- Mask 000F keeps n alone. -/
theorem and_mask_000F (w : Word) : w &&& 0x000F#16 = (nField w).setWidth 16 := by
  ext i hi
  simp only [nField]
  interval_cases i <;> simp

/-- Ops 5 and 9 have no minor opcode but 0 (R105). -/
theorem decodeWord_of_op5_or_op9 {w : Word} (hop : w &&& 0xF000#16 = 0x5000#16 ∨ w &&& 0xF000#16 = 0x9000#16)
    (hn : w &&& 0x000F#16 ≠ 0#16) : decodeWord w = .error (.unknownOpcode w) := by
  have hop : opField w = 0x5#4 ∨ opField w = 0x9#4 := by
    rw [← opField_and_F000 w]
    exact hop.imp (congrArg opField) (congrArg opField)
  have hn : nField w ≠ 0x0#4 := fun h => hn (by rw [and_mask_000F, h]; rfl)
  exact decodeWord_eq_error_iff.2 ⟨.inr (.inl ⟨hop, hn⟩), rfl⟩

end Sys2Proof

namespace Sys2Proof.Machine

/-! ## Jumps and skips (R161, R165 to R169) -/

theorem Unchanged.of_pc (s : State) (pc : Word) : Unchanged [.pc] s { s with pc := pc } :=
  Agree.unchanged (by simp [agree_iff]) (by simp)

theorem State.unchanged_skipIf (s : State) (c : Bool) : Unchanged [.pc] s (s.skipIf c) :=
  Agree.unchanged (by simp [agree_iff]) (by simp)

theorem absolute_toNat (nnn : Addr) : (absolute nnn).toNat = nnn.toNat := by
  simp only [absolute, BitVec.toNat_setWidth]
  omega

theorem absolute_eq_ofNat (nnn : Addr) : absolute nnn = BitVec.ofNat 16 nnn.toNat := (BitVec.ofNat_toNat 16 nnn).symm

/-- Settles O20: each instruction's word by its format, its effect by `skipIf`, and the illegal words by the spaces of
R105. -/
theorem jumpAndSkips : Obligations.JumpAndSkips := by
  intro s x y kk nnn
  refine ⟨⟨wordA_and_F000 (by decide) nnn, _, rfl, absolute_eq_ofNat nnn, .of_pc s _⟩,
    ⟨wordXK_and_F000 (by decide) x kk, _, rfl, ?_, s.unchanged_skipIf _⟩,
    ⟨wordXK_and_F000 (by decide) x kk, _, rfl, ?_, s.unchanged_skipIf _⟩,
    ⟨wordXYN_and_F00F (by decide) x y 0, _, rfl, ?_, s.unchanged_skipIf _⟩,
    ⟨wordXYN_and_F00F (by decide) x y 0, _, rfl, ?_, s.unchanged_skipIf _⟩,
    fun w => decodeWord_of_op5_or_op9⟩
  all_goals simp

/-- Settles O21: 0xFFF + 0xFF does not reach 2^16, so the sum is exact. -/
theorem jumpV0AddsWithoutMask : Obligations.JumpV0AddsWithoutMask := by
  intro s nnn
  have hsum : (absolute nnn + zext16 (s.reg 0)).toNat = nnn.toNat + (s.reg 0).toNat := by
    simp only [BitVec.toNat_add, absolute_toNat, BitVec.toNat_setWidth]
    omega
  refine ⟨_, rfl, hsum, ?_, .of_pc s _⟩
  show (absolute nnn + zext16 (s.reg 0)).toNat ≤ 0x10FE
  omega

/-! ## The stack guards (R162, R164) -/

theorem State.pushOverflows_iff {s : State} :
    s.pushOverflows = true ↔ s.params.strictStack = true ∧ 0xFE ≤ s.sp.toNat := by
  simp [State.pushOverflows]

theorem State.pushOverflows_eq_false_iff {s : State} :
    s.pushOverflows = false ↔ (s.params.strictStack = true → s.sp.toNat < 0xFE) := by
  rw [← Bool.not_eq_true, State.pushOverflows_iff, not_and, not_le]

theorem State.popUnderflows_iff {s : State} :
    s.popUnderflows = true ↔ s.params.strictStack = true ∧ s.sp.toNat < 2 := by
  simp [State.popUnderflows]

theorem State.popUnderflows_eq_false_iff {s : State} :
    s.popUnderflows = false ↔ (s.params.strictStack = true → 2 ≤ s.sp.toNat) := by
  rw [← Bool.not_eq_true, State.popUnderflows_iff, not_and, not_lt]

/-! ## A push (R162) -/

/-- `s` after a 2nnn that no check stops. -/
def State.called (s : State) (nnn : Addr) : State :=
  { s.storeAll (s.pushWrites s.pc) with sp := s.spAfterPush, pc := absolute nnn }

theorem exec_call_of_overflow {s : State} (h : s.pushOverflows = true) (nnn : Addr) :
    exec (.call nnn) s = .next { s with fault := some (.stackOverflow s.instrAddr s.sp) } := by
  simp [exec, execCall, h, raise]

theorem exec_call_of_not_overflow {s : State} (h : s.pushOverflows = false) (nnn : Addr) :
    exec (.call nnn) s =
      s.checkedStore (s.pushWrites s.pc) fun t => { t with sp := t.spAfterPush, pc := absolute nnn } := by
  simp [exec, execCall, h]

theorem exec_call_of_hit {s : State} {a : Addr} (ho : s.pushOverflows = false)
    (ha : s.fontHit [s.pushHigh, s.pushLow] = some a) (nnn : Addr) :
    exec (.call nnn) s = .next { s with fault := some (.fontWrite s.instrAddr a) } := by
  rw [exec_call_of_not_overflow ho, State.checkedStore_of_hit ha]

theorem exec_call_of_clear {s : State} (ho : s.pushOverflows = false)
    (hn : s.fontHit [s.pushHigh, s.pushLow] = none) (nnn : Addr) : exec (.call nnn) s = .next (s.called nnn) := by
  rw [exec_call_of_not_overflow ho, State.checkedStore_of_clear hn]
  simp [State.called, State.spAfterPush]

theorem State.fontHit_push_eq_none {s : State} :
    s.fontHit [s.pushHigh, s.pushLow] = none ↔ (s.params.fontWrite = .fault →
      inFont s.params s.pushHigh.toNat = false ∧ inFont s.params s.pushLow.toNat = false) := by
  simp [State.fontHit_eq_none]

theorem State.pushHigh_ne_pushLow (s : State) : s.pushHigh ≠ s.pushLow := low12_ne_low12_succ (zext16 s.sp)

/-- The return address is stored big-endian, each byte where it can be written (D4, D12). -/
theorem State.readByte_called (s : State) (nnn a : Addr) :
    (s.called nnn).readByte a =
      if a = s.pushHigh ∧ s.writable a = true then highByte s.pc
      else if a = s.pushLow ∧ s.writable a = true then lowByte s.pc
      else s.readByte a := by
  have hread : (s.called nnn).readByte a =
      ((s.writeByte s.pushHigh (highByte s.pc)).writeByte s.pushLow (lowByte s.pc)).readByte a := rfl
  simp only [hread, State.readByte_writeByte, State.writable_writeByte]
  by_cases hhigh : a = s.pushHigh
  · subst hhigh
    simp [s.pushHigh_ne_pushLow]
  · by_cases hlow : a = s.pushLow
    · subst hlow
      simp [hhigh]
    · simp [hhigh, hlow]

theorem State.called_agree (s : State) (nnn : Addr) : Agree [.mem, .sp, .pc] s (s.called nnn) := by
  simp [agree_iff, State.called]

theorem highByte_eq_ofNat (w : Word) : highByte w = BitVec.ofNat 8 (w.toNat / 256) := by
  apply BitVec.eq_of_toNat_eq
  simp [highByte, Nat.shiftRight_eq_div_pow]

theorem lowByte_eq_ofNat (w : Word) : lowByte w = BitVec.ofNat 8 w.toNat := (BitVec.ofNat_toNat 8 w).symm

theorem State.spAfterPush_eq_ofNat (s : State) : s.spAfterPush = BitVec.ofNat 8 (s.sp.toNat + 2) := by
  simp [State.spAfterPush, BitVec.ofNat_add]

/-- Settles O22: no check stops the push, and the two stack bytes are at different addresses. -/
theorem callPushesAndJumps : Obligations.CallPushesAndJumps := by
  intro s nnn hstrict hfont
  refine ⟨s.called nnn, exec_call_of_clear (State.pushOverflows_eq_false_iff.2 hstrict)
    (State.fontHit_push_eq_none.2 hfont) nnn, absolute_eq_ofNat nnn, s.spAfterPush_eq_ofNat, fun a => ?_,
    (s.called_agree nnn).unchanged (by simp)⟩
  rw [← highByte_eq_ofNat, ← lowByte_eq_ofNat]
  exact s.readByte_called nnn a

/-- Settles O23: the strict-mode check comes first, and the font check names the first of SP and SP + 1 that it
hits. -/
theorem callFaults : Obligations.CallFaults := by
  intro s nnn
  refine ⟨fun hfull => exec_call_of_overflow (State.pushOverflows_iff.2 hfull) nnn, ?_, ?_⟩
  · rintro ⟨hroom, hpolicy, hhigh⟩
    rw [← State.pushOverflows_iff, Bool.not_eq_true] at hroom
    exact exec_call_of_hit hroom (by simp [State.fontHit, hpolicy, hhigh]) nnn
  · rintro ⟨hroom, hpolicy, hhigh, hlow⟩
    rw [← State.pushOverflows_iff, Bool.not_eq_true] at hroom
    exact exec_call_of_hit hroom (by simp [State.fontHit, hpolicy, hhigh, hlow]) nnn

/-! ## A pop (R164) -/

/-- `s` after a 00EE that the strict check does not stop. -/
def State.popped (s : State) : State :=
  { s with sp := s.spAfterPop, pc := s.readWord (zext16 s.spAfterPop) }

theorem exec_ret_of_underflow {s : State} (h : s.popUnderflows = true) :
    exec .ret s = .next { s with fault := some (.stackUnderflow s.instrAddr s.sp) } := by
  simp [exec, execRet, h, raise]

theorem exec_ret_of_not_underflow {s : State} (h : s.popUnderflows = false) : exec .ret s = .next s.popped := by
  simp [exec, execRet, h, State.popped]

theorem State.popped_agree (s : State) : Agree [.sp, .pc] s s.popped := by
  simp [agree_iff, State.popped]

theorem State.spAfterPop_eq_ofNat (s : State) : s.spAfterPop = BitVec.ofNat 8 (s.sp.toNat + 254) := by
  simp [State.spAfterPop, BitVec.ofNat_add]

theorem joinBytes_toNat (hi lo : Byte) : (joinBytes hi lo).toNat = hi.toNat * 256 + lo.toNat := by
  rw [joinBytes, BitVec.toNat_append, ← Nat.shiftLeft_add_eq_or_of_lt lo.isLt, Nat.shiftLeft_eq]

/-- A word of the stack region, its second address not reduced mod 256 (log entry 7). -/
theorem State.readWord_zext16_toNat (s : State) (a : Byte) :
    (s.readWord (zext16 a)).toNat =
      (s.readByte (BitVec.ofNat 12 a.toNat)).toNat * 256 + (s.readByte (BitVec.ofNat 12 (a.toNat + 1))).toNat := by
  have hhigh : low12 (zext16 a) = BitVec.ofNat 12 a.toNat := by bv_omega
  have hlow : low12 (zext16 a + 1#16) = BitVec.ofNat 12 (a.toNat + 1) := by bv_omega
  rw [State.readWord, joinBytes_toNat, hhigh, hlow]

/-- Settles O24, on the two sides of the strict check. -/
theorem returnPopsPc : Obligations.ReturnPopsPc := by
  intro s
  refine ⟨fun h => ?_, fun h => exec_ret_of_underflow (State.popUnderflows_iff.2 h)⟩
  have hdeep : s.popUnderflows = false := State.popUnderflows_eq_false_iff.2 fun hs => h.resolve_left (by simp [hs])
  rw [← s.spAfterPop_eq_ofNat]
  exact ⟨s.popped, exec_ret_of_not_underflow hdeep, rfl, s.readWord_zext16_toNat _,
    s.popped_agree.unchanged (by simp)⟩

/-! ## A push and then a pop (R163) -/

/-- Where both bytes can be written, the font check has nothing to name. -/
theorem State.fontHit_push_of_writable {s : State} (hhigh : s.writable s.pushHigh = true)
    (hlow : s.writable s.pushLow = true) : s.fontHit [s.pushHigh, s.pushLow] = none :=
  State.fontHit_push_eq_none.2 fun hpolicy => by simpa [State.writable, hpolicy] using And.intro hhigh hlow

@[simp] theorem State.spAfterPop_called (s : State) (nnn : Addr) : (s.called nnn).spAfterPop = s.sp := by
  simp [State.spAfterPop, State.called, State.spAfterPush, BitVec.add_assoc]

/-- A push that has room leaves something to pop. -/
theorem State.popUnderflows_called {s : State} (h : s.pushOverflows = false) (nnn : Addr) :
    (s.called nnn).popUnderflows = false := by
  rw [State.pushOverflows_eq_false_iff] at h
  rw [State.popUnderflows_eq_false_iff]
  intro hstrict
  have hroom : s.sp.toNat < 0xFE := h (by simpa [State.called] using hstrict)
  show 2 ≤ s.spAfterPush.toNat
  rw [State.spAfterPush_eq_ofNat, BitVec.toNat_ofNat]
  omega

/-- The word on top of the stack is the address pushed. -/
theorem State.readWord_called {s : State} (hhigh : s.writable s.pushHigh = true) (hlow : s.writable s.pushLow = true)
    (nnn : Addr) : (s.called nnn).readWord (zext16 s.sp) = s.pc := by
  show joinBytes ((s.called nnn).readByte s.pushHigh) ((s.called nnn).readByte s.pushLow) = s.pc
  simp [State.readByte_called, hhigh, hlow, s.pushHigh_ne_pushLow.symm, joinBytes_highByte_lowByte]

/-- The pop undoes the push but for the bytes stored. -/
theorem State.popped_called {s : State} (hhigh : s.writable s.pushHigh = true) (hlow : s.writable s.pushLow = true)
    (nnn : Addr) : (s.called nnn).popped = { s.called nnn with sp := s.sp, pc := s.pc } := by
  rw [State.popped, State.spAfterPop_called, State.readWord_called hhigh hlow]

/-- Settles O25: the strict check that let the push through lets the pop through, which undoes it. -/
theorem callThenReturnRestoresPcAndSp : Obligations.CallThenReturnRestoresPcAndSp := by
  intro s nnn hstrict hhigh hlow
  have hroom : s.pushOverflows = false := State.pushOverflows_eq_false_iff.2 hstrict
  have hret : exec .ret (s.called nnn) = .next { s.called nnn with sp := s.sp, pc := s.pc } := by
    rw [exec_ret_of_not_underflow (State.popUnderflows_called hroom nnn), State.popped_called hhigh hlow]
  exact ⟨s.called nnn, _, exec_call_of_clear hroom (State.fontHit_push_of_writable hhigh hlow) nnn, hret, rfl, rfl,
    Agree.unchanged (by simp [agree_iff, State.called]) (by simp)⟩

end Sys2Proof.Machine
end

section
/-! ALU (42_alu.md): a register write alone, a result and then its flag, and the free random byte. -/

namespace Sys2Proof.Machine

/-! ## The two forms of a register write (R191) -/

theorem State.unchanged_setReg (s : State) (x : Reg) (b : Byte) : Unchanged [.v] s (s.setReg x b) :=
  Agree.unchanged (by simp [agree_iff]) (by simp)

theorem State.unchanged_setRegThenFlag (s : State) (x : Reg) (b f : Byte) :
    Unchanged [.v] s (s.setRegThenFlag x b f) :=
  Agree.unchanged (by simp [agree_iff]) (by simp)

/-- The result is in Vx, VF included where x = 15, and every other register and part is as it was. -/
theorem writes_of_exec_eq_setReg {i : Instr} {s : State} {x : Reg} {b : Byte}
    (h : exec i s = .next (s.setReg x b)) :
    ∃ t : State, exec i s = .next t ∧ (∀ r : Reg, t.reg r = if r = x then b else s.reg r) ∧ Unchanged [.v] s t :=
  ⟨_, h, fun r => s.reg_setReg x r b, s.unchanged_setReg x b⟩

/-- The flag is in VF even where x = 15 (D9), the result in any other Vx. -/
theorem writes_of_exec_eq_setRegThenFlag {i : Instr} {s : State} {x : Reg} {b f : Byte}
    (h : exec i s = .next (s.setRegThenFlag x b f)) :
    ∃ t : State, exec i s = .next t ∧
      (∀ r : Reg, t.reg r = if r = vF then f else if r = x then b else s.reg r) ∧ Unchanged [.v] s t :=
  ⟨_, h, fun r => s.reg_setRegThenFlag x r b f, s.unchanged_setRegThenFlag x b f⟩

/-! ## Byte arithmetic as numbers mod 256 (R198) -/

theorem byte_sub_eq_ofNat (a b : Byte) : a - b = BitVec.ofNat 8 (a.toNat + 256 - b.toNat) := by
  bv_omega

theorem byte_shr_one_eq_ofNat (a : Byte) : a >>> 1 = BitVec.ofNat 8 (a.toNat / 2) := by
  apply BitVec.eq_of_toNat_eq
  rw [BitVec.toNat_ushiftRight, Nat.shiftRight_eq_div_pow, BitVec.toNat_ofNat]
  omega

theorem byte_shl_one_eq_ofNat (a : Byte) : a <<< 1 = BitVec.ofNat 8 (a.toNat * 2) := by
  apply BitVec.eq_of_toNat_eq
  rw [BitVec.toNat_shiftLeft, Nat.shiftLeft_eq, BitVec.toNat_ofNat]

/-! ## The bit a shift drops (R202, R204) -/

theorem flagByte_testBit (n k : Nat) : flagByte (n.testBit k) = BitVec.ofNat 8 (n / 2 ^ k % 2) := by
  rw [Nat.testBit_eq_decide_div_mod_eq, flagByte]
  rcases Nat.mod_two_eq_zero_or_one (n / 2 ^ k) with h | h <;> simp [h]

theorem shrFlag_eq_ofNat (a : Byte) : shrFlag a = BitVec.ofNat 8 (a.toNat % 2) := by
  rw [shrFlag, BitVec.getLsbD, flagByte_testBit, Nat.pow_zero, Nat.div_one]

/-- Bit 7 is the top bit, so what lies above the low seven is that bit alone. -/
theorem shlFlag_eq_ofNat (a : Byte) : shlFlag a = BitVec.ofNat 8 (a.toNat / 128) := by
  have htop : a.toNat / 2 ^ 7 % 2 = a.toNat / 128 := by omega
  rw [shlFlag, BitVec.getLsbD, flagByte_testBit, htop]

/-! ## The instructions -/

/-- Settles O16: each instruction's word by its format, and its effect by one register write. -/
theorem loadsLogicAndAddImmediate : Obligations.LoadsLogicAndAddImmediate := by
  intro s x y kk
  rw [← BitVec.add_def]
  exact ⟨⟨wordXK_and_F000 (by decide) x kk, writes_of_exec_eq_setReg rfl⟩,
    ⟨wordXK_and_F000 (by decide) x kk, writes_of_exec_eq_setReg rfl⟩,
    ⟨wordXYN_and_F00F (by decide) x y 0x0, writes_of_exec_eq_setReg rfl⟩,
    ⟨wordXYN_and_F00F (by decide) x y 0x1, writes_of_exec_eq_setReg rfl⟩,
    ⟨wordXYN_and_F00F (by decide) x y 0x2, writes_of_exec_eq_setReg rfl⟩,
    ⟨wordXYN_and_F00F (by decide) x y 0x3, writes_of_exec_eq_setReg rfl⟩⟩

/-- Settles O17: the results are the machine's wrapped ones, and the flags are `carryFlag` and `noBorrowFlag`. -/
theorem addAndSubtractSetVF : Obligations.AddAndSubtractSetVF := by
  intro s x y
  dsimp only
  rw [← BitVec.add_def, ← byte_sub_eq_ofNat, ← byte_sub_eq_ofNat]
  exact ⟨writes_of_exec_eq_setRegThenFlag rfl, writes_of_exec_eq_setRegThenFlag rfl,
    writes_of_exec_eq_setRegThenFlag rfl⟩

/-- Settles O18: half and the lowest bit of the old Vx, and its double and the highest bit. -/
theorem shiftsSetVF : Obligations.ShiftsSetVF := by
  intro s x y
  dsimp only
  rw [← byte_shr_one_eq_ofNat, ← shrFlag_eq_ofNat, ← byte_shl_one_eq_ofNat, ← shlFlag_eq_ofNat]
  exact ⟨writes_of_exec_eq_setRegThenFlag rfl, writes_of_exec_eq_setRegThenFlag rfl⟩

/-! ## The random byte (R205) -/

/-- `s` after a Cxkk that drew `r`. -/
def State.drawn (s : State) (x : Reg) (kk r : Byte) : State := { s.randomInto x kk r with draws := s.draws + 1 }

theorem exec_rnd (x : Reg) (kk : Byte) (s : State) :
    exec (.rnd x kk) s = .next (s.drawn x kk (Config.draw s.draws)) := rfl

theorem State.reg_drawn (s : State) (x q : Reg) (kk r : Byte) :
    (s.drawn x kk r).reg q = if q = x then r &&& kk else s.reg q :=
  s.reg_setReg x q (r &&& kk)

theorem State.unchanged_drawn (s : State) (x : Reg) (kk r : Byte) : Unchanged [.v, .draws] s (s.drawn x kk r) :=
  Agree.unchanged (by simp [agree_iff, State.drawn, State.randomInto]) (by simp)

/-- Settles O19: nothing is known of the draw, and a bit that kk clears is 0 in Vx. -/
theorem randomIsTheDrawMasked : Obligations.RandomIsTheDrawMasked := by
  intro s x kk
  refine ⟨_, s.drawn x kk (Config.draw s.draws), rfl, exec_rnd x kk s, rfl, fun q => s.reg_drawn x q kk _,
    s.unchanged_drawn x kk _, fun b hb => ?_⟩
  simp [State.reg_drawn, hb]

end Sys2Proof.Machine
end

section
/-! Index register and memory (43_index_memory.md): I and its glyphs, and the ranges of bytes at I that Fx33 and Fx55
store and Fx65 loads. -/

namespace Sys2Proof.Machine

/-! ## I alone (R231, R232) -/

theorem State.unchanged_of_i (s : State) (i : Word) : Unchanged [.i] s { s with i := i } :=
  Agree.unchanged (by simp [agree_iff]) (by simp)

/-- Settles O27: the word by its format, and nnn zero-extended. -/
theorem loadIndex : Obligations.LoadIndex := fun s nnn =>
  ⟨wordA_and_F000 (by decide) nnn, _, rfl, absolute_toNat nnn,
    (absolute_toNat nnn).trans_le (Nat.le_of_lt_succ nnn.isLt), s.unchanged_of_i _⟩

theorem add_zext16_toNat (w : Word) (b : Byte) : (w + zext16 b).toNat = (w.toNat + b.toNat) % 0x10000 := by
  simp only [BitVec.toNat_add, BitVec.toNat_setWidth]
  omega

/-- Settles O28: the 16-bit sum is the only write. -/
theorem addToIndex : Obligations.AddToIndex := fun s x => ⟨_, rfl, add_zext16_toNat s.i (s.reg x), s.unchanged_of_i _⟩

/-! ## The glyph of a digit (R233) -/

theorem fontBaseAddr_le (b : FontBase) : fontBaseAddr b ≤ 0x100 := by
  cases b <;> decide

/-- No digit a byte can hold takes the address past 16 bits. -/
theorem glyphAddr_toNat (p : Params) {d : Nat} (hd : d < 0x100) :
    (glyphAddr p d).toNat = fontBaseAddr p.fontBase + 5 * d := by
  have hbase := fontBaseAddr_le p.fontBase
  rw [glyphAddr, BitVec.toNat_ofNat]
  omega

theorem State.fontDigitOf_of_le {s : State} {b : Byte} (h : b.toNat ≤ 0xF) : s.fontDigitOf b = some b.toNat :=
  if_pos h

theorem State.fontDigitOf_lowNibble {s : State} {b : Byte} (h : 0xF < b.toNat)
    (hpolicy : s.params.fontDigit = .lowNibble) : s.fontDigitOf b = some (b.toNat % 16) := by
  simp [State.fontDigitOf, h.not_ge, hpolicy]

theorem State.fontDigitOf_unmasked {s : State} {b : Byte} (h : 0xF < b.toNat)
    (hpolicy : s.params.fontDigit = .unmasked) : s.fontDigitOf b = some b.toNat := by
  simp [State.fontDigitOf, h.not_ge, hpolicy]

theorem State.fontDigitOf_fault {s : State} {b : Byte} (h : 0xF < b.toNat)
    (hpolicy : s.params.fontDigit = .fault) : s.fontDigitOf b = none := by
  simp [State.fontDigitOf, h.not_ge, hpolicy]

/-- Where the policy gives a digit, Fx29 points I at its glyph. -/
theorem exec_ldF_of_digit {s : State} {x : Reg} {d : Nat} (h : s.fontDigitOf (s.reg x) = some d) (hd : d < 0x100) :
    ∃ t : State, exec (.ldF x) s = .next t ∧ t.i.toNat = fontBaseAddr s.params.fontBase + 5 * d ∧
      Unchanged [.i] s t := by
  have hexec : exec (.ldF x) s = .next { s with i := glyphAddr s.params d } := by simp [exec, execLdF, h]
  exact ⟨_, hexec, glyphAddr_toNat s.params hd, s.unchanged_of_i _⟩

theorem exec_ldF_of_no_digit {s : State} {x : Reg} (h : s.fontDigitOf (s.reg x) = none) :
    exec (.ldF x) s = .next { s with fault := some (.fontDigitOutOfRange s.instrAddr (s.reg x)) } := by
  simp [exec, execLdF, h, raise]

/-- Settles O29: a value up to 0xF is the digit; above it, the digit is what the policy gives. -/
theorem loadGlyphAddress : Obligations.LoadGlyphAddress := by
  intro s x
  have hlt : (s.reg x).toNat < 0x100 := (s.reg x).isLt
  refine ⟨fun h => exec_ldF_of_digit (State.fontDigitOf_of_le h) hlt, ?_, ?_, ?_⟩
  · rintro ⟨h, hpolicy⟩
    exact exec_ldF_of_digit (State.fontDigitOf_lowNibble h hpolicy) ((Nat.mod_le _ _).trans_lt hlt)
  · rintro ⟨h, hpolicy⟩
    exact exec_ldF_of_digit (State.fontDigitOf_unmasked h hpolicy) hlt
  · rintro ⟨h, hpolicy⟩
    exact exec_ldF_of_no_digit (State.fontDigitOf_fault h hpolicy)

/-! ## A range of bytes stored at I (R80, R81) -/

/-- Offsets below the size of memory have addresses of their own. -/
theorem State.ea_ne {s : State} {j k : Nat} (hjk : j < k) (hk : k < 0x1000) : s.ea j ≠ s.ea k := by
  rw [Ne, ← BitVec.toNat_inj, State.ea_toNat, State.ea_toNat]
  omega

/-- The writes of `f k` at EA(k), k = 0 to n - 1: the form of Fx33's and Fx55's. -/
def State.rangeWrites (s : State) (n : Nat) (f : Nat → Byte) : List (Addr × Byte) :=
  (List.range n).map fun k => (s.ea k, f k)

theorem State.mem_rangeWrites {s : State} {n : Nat} {f : Nat → Byte} {w : Addr × Byte} :
    w ∈ s.rangeWrites n f ↔ ∃ k < n, (s.ea k, f k) = w := by
  simp [State.rangeWrites]

theorem State.rangeWrites_pairwise (s : State) {n : Nat} (hn : n ≤ 0x1000) (f : Nat → Byte) :
    (s.rangeWrites n f).Pairwise fun u v => u.1 ≠ v.1 := by
  refine List.pairwise_map.2 (List.pairwise_lt_range.imp_of_mem fun _ hk hjk => ?_)
  exact State.ea_ne hjk ((List.mem_range.1 hk).trans_le hn)

theorem State.readByte_rangeWrites_ea (s : State) {n k : Nat} (hn : n ≤ 0x1000) (f : Nat → Byte) (hk : k < n)
    (hw : s.writable (s.ea k) = true) : (s.storeAll (s.rangeWrites n f)).readByte (s.ea k) = f k :=
  s.readByte_storeAll_mem _ (s.ea k, f k) (s.rangeWrites_pairwise hn f) (State.mem_rangeWrites.2 ⟨k, hk, rfl⟩) hw

theorem State.readByte_rangeWrites_other (s : State) {n : Nat} (f : Nat → Byte) {a : Addr}
    (h : ∀ k < n, a = s.ea k → s.writable a = false) :
    (s.storeAll (s.rangeWrites n f)).readByte a = s.readByte a := by
  refine s.readByte_storeAll_other _ a fun w hw e => ?_
  obtain ⟨k, hk, rfl⟩ := State.mem_rangeWrites.1 hw
  exact h k hk e.symm

/-- Where no address of the range is in a font that faults, the whole range is stored. -/
theorem State.checkedStore_rangeWrites {s : State} {n : Nat}
    (h : s.params.fontWrite = .fault → ∀ k < n, inFont s.params (s.ea k).toNat = false) (f : Nat → Byte)
    (rest : State → State) :
    s.checkedStore (s.rangeWrites n f) rest = .next (rest (s.storeAll (s.rangeWrites n f))) := by
  refine State.checkedStore_of_clear (State.fontHit_eq_none.2 fun hpolicy a ha => ?_)
  obtain ⟨w, hw, rfl⟩ := List.mem_map.1 ha
  obtain ⟨k, hk, rfl⟩ := State.mem_rangeWrites.1 hw
  exact h hpolicy k hk

theorem State.unchanged_storeAll (s : State) (ws : List (Addr × Byte)) : Unchanged [.mem] s (s.storeAll ws) :=
  Agree.unchanged (by simp [agree_iff]) (by simp)

/-! ## The decimal digits (R234) -/

/-- The digits of a byte in the order Fx33 stores them: hundreds, tens, ones. -/
def bcdDigit (a : Byte) : Nat → Byte
  | 0 => BitVec.ofNat 8 (a.toNat / 100)
  | 1 => BitVec.ofNat 8 (a.toNat / 10 % 10)
  | _ => BitVec.ofNat 8 (a.toNat % 10)

theorem State.bcdWrites_eq (s : State) (a : Byte) : s.bcdWrites a = s.rangeWrites 3 (bcdDigit a) := rfl

theorem State.readByte_storeAll_bcdWrites (s : State) (b : Byte) (a : Addr) :
    (s.storeAll (s.bcdWrites b)).readByte a =
      if a = s.ea 0 ∧ s.writable a = true then bcdDigit b 0
      else if a = s.ea 1 ∧ s.writable a = true then bcdDigit b 1
      else if a = s.ea 2 ∧ s.writable a = true then bcdDigit b 2
      else s.readByte a := by
  have hread : ∀ k < 3, a = s.ea k ∧ s.writable a = true →
      (s.storeAll (s.rangeWrites 3 (bcdDigit b))).readByte a = bcdDigit b k := by
    rintro k hk ⟨rfl, hw⟩
    exact s.readByte_rangeWrites_ea (by decide) _ hk hw
  rw [State.bcdWrites_eq]
  split_ifs with h0 h1 h2
  · exact hread 0 (by decide) h0
  · exact hread 1 (by decide) h1
  · exact hread 2 (by decide) h2
  · refine s.readByte_rangeWrites_other _ fun k hk hak => Bool.eq_false_iff.2 fun hw => ?_
    interval_cases k
    · exact h0 ⟨hak, hw⟩
    · exact h1 ⟨hak, hw⟩
    · exact h2 ⟨hak, hw⟩

/-- Settles O30: three bytes at addresses of their own, each dropped where the policy protects it. -/
theorem bcdStoresThreeDigits : Obligations.BcdStoresThreeDigits := fun s x hclear =>
  ⟨s.storeAll (s.bcdWrites (s.reg x)), State.checkedStore_rangeWrites hclear (bcdDigit (s.reg x)) id,
    s.readByte_storeAll_bcdWrites (s.reg x), s.unchanged_storeAll _⟩

/-! ## The register range (R235, R236) -/

@[simp] theorem rangeReg_val (r : Reg) : rangeReg r.val = r := Fin.ofNat_val_eq_self r

theorem State.advanceI_i_toNat (s : State) (x : Reg) :
    (s.advanceI x).i.toNat = (s.i.toNat + x.val + 1) % 0x10000 := by
  simp only [State.advanceI_i, BitVec.toNat_add, BitVec.toNat_ofNat]
  omega

theorem State.regWrites_eq (s : State) (x : Reg) :
    s.regWrites x = s.rangeWrites (x.val + 1) fun k => s.reg (rangeReg k) := rfl

/-- An offset of the range is the number of a register up to x. -/
theorem forall_offset_of_forall_reg {x : Reg} {P : Nat → Prop} (h : ∀ k : Reg, k ≤ x → P k.val) :
    ∀ k < x.val + 1, P k :=
  fun k hk => h ⟨k, by omega⟩ (Nat.le_of_lt_succ hk)

/-- Settles O31: x + 1 bytes at addresses of their own, and then I. -/
theorem storeRegistersWritesTheRange : Obligations.StoreRegistersWritesTheRange := by
  intro s x hclear
  refine ⟨(s.storeAll (s.regWrites x)).advanceI x,
    State.checkedStore_rangeWrites (fun hp => forall_offset_of_forall_reg (hclear hp)) _ fun t => t.advanceI x,
    ?_, fun k hk hw => ?_, fun a ha => ?_, Agree.unchanged (by simp [agree_iff]) (by simp)⟩
  · rw [State.advanceI_i_toNat, State.storeAll_i]
  · rw [State.readByte_congr (State.advanceI_mem _ x) (State.advanceI_params _ x), State.regWrites_eq,
      s.readByte_rangeWrites_ea (by omega) _ (Nat.lt_succ_of_le hk) hw, rangeReg_val]
  · rw [State.readByte_congr (State.advanceI_mem _ x) (State.advanceI_params _ x), State.regWrites_eq,
      s.readByte_rangeWrites_other _ (forall_offset_of_forall_reg ha)]

/-- The loads of the first n registers: each is loaded once, from memory as it was. -/
theorem State.reg_foldl_setReg (s : State) (f : Nat → Byte) {n : Nat} (hn : n ≤ 16) (r : Reg) :
    ((List.range n).foldl (fun t k => t.setReg (rangeReg k) (f k)) s).reg r =
      if r.val < n then f r.val else s.reg r := by
  induction n with
  | zero => simp
  | succ n ih =>
    rw [List.range_succ, List.foldl_append, List.foldl_cons, List.foldl_nil, State.reg_setReg, ih (by omega)]
    have hlast : r = rangeReg n ↔ r.val = n := by
      rw [Fin.ext_iff, rangeReg, Fin.val_ofNat, Nat.mod_eq_of_lt hn]
    by_cases hr : r.val = n
    · simp [hlast, hr]
    · rw [if_neg (hlast.not.2 hr)]
      exact if_congr (by omega) rfl rfl

theorem State.reg_loadRegs (s : State) (x r : Reg) :
    (s.loadRegs x).reg r = if r ≤ x then s.readByte (s.ea r.val) else s.reg r := by
  rw [State.loadRegs, offsetsUpTo, s.reg_foldl_setReg (fun k => s.readByte (s.ea k)) (by omega)]
  exact if_congr Nat.lt_succ_iff rfl rfl

theorem State.unchanged_loadRegs_advanceI (s : State) (x : Reg) :
    Unchanged [.v, .i] s ((s.loadRegs x).advanceI x) := by
  rw [State.loadRegs_eq]
  exact Agree.unchanged (by simp [agree_iff]) (by simp)

/-- Settles O33: the loads, none of which moves I, and then I. -/
theorem loadRegistersReadsTheRange : Obligations.LoadRegistersReadsTheRange := by
  intro s x
  refine ⟨_, rfl, fun r => ?_, ?_, s.unchanged_loadRegs_advanceI x⟩
  · rw [State.reg_congr (State.advanceI_v _ x), State.reg_loadRegs]
  · rw [State.advanceI_i_toNat, State.loadRegs_eq]

/-- Under the policy `fault` the bytes that can be written are those outside the font. -/
theorem State.not_inFont_of_writable {s : State} {a : Addr} (hpolicy : s.params.fontWrite = .fault)
    (h : s.writable a = true) : inFont s.params a.toNat = false := by
  simpa [State.writable, hpolicy] using h

/-- Settles O34: the store puts each register where the load, from the same I, reads it. -/
theorem storeThenLoadGivesTheRegistersBack : Obligations.StoreThenLoadGivesTheRegistersBack := by
  intro s x v' hwritable
  obtain ⟨t, hstore, hti, hstored, -⟩ := storeRegistersWritesTheRange s x fun hpolicy k hk =>
    State.not_inFont_of_writable hpolicy (hwritable k hk)
  obtain ⟨u, hload, hloaded, hui, -⟩ := loadRegistersReadsTheRange { t with i := s.i, v := v' } x
  refine ⟨t, u, hstore, hload, fun r hr => ?_, BitVec.eq_of_toNat_eq (hui.trans hti.symm)⟩
  calc u.reg r = t.readByte (s.ea r.val) := (hloaded r).trans (if_pos hr)
    _ = s.reg r := hstored r hr (hwritable r hr)

end Sys2Proof.Machine
end

section
/-! Display (44_display.md): the clear, and a sprite draw as the inversion, once each, of the pixels under its set
bits. -/

namespace Sys2Proof.Machine

/-! ## 00E0 (R260) -/

/-- Settles O35: a framebuffer with nothing listed is off everywhere. -/
theorem clearTurnsEveryPixelOff : Obligations.ClearTurnsEveryPixelOff := fun s =>
  ⟨_, rfl, fun _ _ _ _ => rfl, rfl, Agree.unchanged (by simp [agree_iff]) (by simp)⟩

/-! ## A pixel inverted -/

/-- What a set sprite bit makes of an FB byte: off goes on, anything else goes off (R262). -/
def flipByte (v : Byte) : Byte := if v = 0#8 then 255#8 else 0#8

@[simp] theorem flipByte_eq_zero_iff {v : Byte} : flipByte v = 0#8 ↔ v ≠ 0#8 := by
  unfold flipByte
  split <;> simp [*]

theorem flipByte_flipByte {v : Byte} (h : v = 0#8 ∨ v = 255#8) : flipByte (flipByte v) = v := by
  rcases h with rfl | rfl <;> decide

/-! ## Drawing as inversion (R262, R263)

Each part of a draw, a bit, a row or the whole sprite, inverts the pixels it covers and leaves the others. Parts that
cover no pixel in common compose. -/

/-- `d'` is `d` with every pixel of `covered` inverted once and no other pixel changed; a pixel of `covered` that was
on is a hit. -/
structure Inverts (covered : Nat → Nat → Prop) (d d' : DrawState) : Prop where
  flipped : ∀ y x : Nat, x < 64 → covered y x → fbRead d'.fb y x = flipByte (fbRead d.fb y x)
  kept : ∀ y x : Nat, x < 64 → ¬ covered y x → fbRead d'.fb y x = fbRead d.fb y x
  hit_iff : d'.hit = true ↔ d.hit = true ∨ ∃ y x : Nat, x < 64 ∧ covered y x ∧ fbRead d.fb y x ≠ 0#8

theorem Inverts.refl {covered : Nat → Nat → Prop} (h : ∀ y x : Nat, x < 64 → ¬ covered y x) (d : DrawState) :
    Inverts covered d d where
  flipped y x hx hc := absurd hc (h y x hx)
  kept _ _ _ _ := rfl
  hit_iff := ⟨.inl, fun hd => hd.resolve_right fun ⟨y, x, hx, hc, _⟩ => h y x hx hc⟩

theorem Inverts.congr {c c' : Nat → Nat → Prop} {d d' : DrawState} (h : Inverts c d d')
    (hc : ∀ y x : Nat, x < 64 → (c y x ↔ c' y x)) : Inverts c' d d' where
  flipped y x hx hy := h.flipped y x hx ((hc y x hx).2 hy)
  kept y x hx hy := h.kept y x hx (mt (hc y x hx).1 hy)
  hit_iff := h.hit_iff.trans <| or_congr_right <| exists₂_congr fun y x => and_congr_right fun hx =>
    and_congr_left' (hc y x hx)

/-- The second part finds its pixels as they were before the first. -/
theorem Inverts.trans {c c' : Nat → Nat → Prop} {d d' d'' : DrawState} (h : Inverts c d d') (h' : Inverts c' d' d'')
    (hdisj : ∀ y x : Nat, c y x → ¬ c' y x) : Inverts (fun y x => c y x ∨ c' y x) d d'' where
  flipped y x hx := by
    rintro (hc | hc')
    · rw [h'.kept y x hx (hdisj y x hc), h.flipped y x hx hc]
    · rw [h'.flipped y x hx hc', h.kept y x hx fun hc => hdisj y x hc hc']
  kept y x hx hc := by
    rw [not_or] at hc
    rw [h'.kept y x hx hc.2, h.kept y x hx hc.1]
  hit_iff := by
    have hsecond : ∀ y x : Nat, x < 64 → c' y x → fbRead d'.fb y x = fbRead d.fb y x := fun y x hx hc' =>
      h.kept y x hx fun hc => hdisj y x hc hc'
    rw [h'.hit_iff, h.hit_iff, or_assoc]
    refine or_congr_right ⟨?_, ?_⟩
    · rintro (⟨y, x, hx, hc, hon⟩ | ⟨y, x, hx, hc', hon⟩)
      · exact ⟨y, x, hx, .inl hc, hon⟩
      · exact ⟨y, x, hx, .inr hc', hsecond y x hx hc' ▸ hon⟩
    · rintro ⟨y, x, hx, hc | hc', hon⟩
      · exact .inl ⟨y, x, hx, hc, hon⟩
      · exact .inr ⟨y, x, hx, hc', (hsecond y x hx hc').symm ▸ hon⟩

/-- A loop over parts no two of which cover a pixel in common. -/
theorem Inverts.foldl_range {f : DrawState → Nat → DrawState} {c : Nat → Nat → Nat → Prop} {n : Nat}
    (hf : ∀ k < n, ∀ d : DrawState, Inverts (c k) d (f d k))
    (hdisj : ∀ j k y x : Nat, j < k → k < n → c j y x → ¬ c k y x) (d : DrawState) :
    Inverts (fun y x => ∃ k < n, c k y x) d ((List.range n).foldl f d) := by
  induction n with
  | zero => exact .refl (by simp) d
  | succ n ih =>
    rw [List.range_succ, List.foldl_append, List.foldl_cons, List.foldl_nil]
    have hinit := ih (fun k hk => hf k (by omega)) fun j k y x hj hk => hdisj j k y x hj (by omega)
    refine (hinit.trans (hf n (by omega) _) ?_).congr fun y x _ => by rw [Nat.exists_lt_succ_right]
    rintro y x ⟨k, hk, hc⟩
    exact hdisj k n y x hk (by omega) hc

theorem xorPixel_inverts {y x : Nat} (hx : x < 64) (d : DrawState) :
    Inverts (fun py px => py = y ∧ px = x) d (xorPixel y x d) := by
  have hhit : (∃ py px : Nat, px < 64 ∧ (py = y ∧ px = x) ∧ fbRead d.fb py px ≠ 0#8) ↔ fbRead d.fb y x ≠ 0#8 :=
    ⟨fun ⟨_, _, _, ⟨rfl, rfl⟩, hon⟩ => hon, fun hon => ⟨y, x, hx, ⟨rfl, rfl⟩, hon⟩⟩
  have hread (py px : Nat) (hpx : px < 64) : fbRead (xorPixel y x d).fb py px =
      if py = y ∧ px = x then flipByte (fbRead d.fb y x) else fbRead d.fb py px := by
    unfold xorPixel flipByte
    split <;> simp_all [fbRead_write]
  refine ⟨?_, fun py px hpx hc => by rw [hread py px hpx, if_neg hc], ?_⟩
  · rintro py px hpx ⟨rfl, rfl⟩
    rw [hread py px hpx, if_pos ⟨rfl, rfl⟩]
  · rw [hhit]
    unfold xorPixel
    split <;> simp_all

/-- Bit 7 - b of a sprite byte, where it is set, covers column x0 + b of its row (R261). -/
def BitCovers (x0 y : Nat) (sprite : Byte) (b py px : Nat) : Prop :=
  y = py ∧ x0 + b = px ∧ sprite.getLsbD (7 - b) = true

/-- A column past 63 is clipped, and is no pixel. -/
theorem drawBit_inverts (x0 y : Nat) (sprite : Byte) (b : Nat) (d : DrawState) :
    Inverts (BitCovers x0 y sprite b) d (drawBit x0 y sprite d b) := by
  unfold drawBit
  split
  next h =>
    obtain ⟨hx, hset⟩ : x0 + b < 64 ∧ sprite.getLsbD (7 - b) = true := by simpa using h
    exact (xorPixel_inverts hx d).congr fun py px _ => by simp [BitCovers, hset, eq_comm]
  next h =>
    refine .refl ?_ d
    rintro _ _ hx ⟨-, rfl, hset⟩
    exact h (by simp [hx, hset])

/-- The bits of a row are in different columns. -/
theorem drawRow_inverts (x0 y : Nat) (sprite : Byte) (d : DrawState) :
    Inverts (fun py px => ∃ b < 8, BitCovers x0 y sprite b py px) d (drawRow x0 y sprite d) := by
  refine Inverts.foldl_range (fun b _ => drawBit_inverts x0 y sprite b) ?_ d
  rintro j k py px hjk - ⟨-, hj, -⟩ ⟨-, hk, -⟩
  omega

/-- Rows wrap, so a covered pixel is in the frame (R261). -/
theorem SpriteCovers.row_lt {s : State} {x0 y0 n py px : Nat} (h : SpriteCovers s x0 y0 n py px) : py < 32 := by
  obtain ⟨row, b, -, -, rfl, -⟩ := h
  exact Nat.mod_lt _ (by decide)

/-- Up to 32 rows of a sprite are in different rows of the frame, so no pixel is inverted twice. -/
theorem State.drawSprite_inverts (s : State) (x0 y0 : Nat) {n : Nat} (hn : n ≤ 32) :
    Inverts (SpriteCovers s x0 y0 n) { fb := s.fb, hit := false } (s.drawSprite x0 y0 n) := by
  refine (Inverts.foldl_range (fun r _ => drawRow_inverts x0 ((y0 + r) % 32) (s.readByte (s.ea r))) ?_ _).congr
    fun py px _ => ?_
  · rintro j k py px hjk hk ⟨_, -, hj, -⟩ ⟨_, -, hk', -⟩
    omega
  · simp [SpriteCovers, BitCovers]

/-! ## The state after Dxyn -/

/-- The pixels under a set bit of the sprite Dxyn draws: its origin is (Vx mod 64, Vy mod 32) (R261). -/
def State.drawCovers (s : State) (x y : Reg) (n py px : Nat) : Prop :=
  SpriteCovers s ((s.reg x).toNat % 64) ((s.reg y).toNat % 32) n py px

/-- `s` after Dxyn. -/
def State.spriteDrawn (s : State) (x y : Reg) (n : Nat) : State :=
  let d := s.drawSprite ((s.reg x).toNat % 64) ((s.reg y).toNat % 32) n
  { s.setReg vF (flagByte d.hit) with fb := d.fb, upd := true }

theorem exec_drw (x y : Reg) (n : Nat) (s : State) : exec (.drw x y n) s = .next (s.spriteDrawn x y n) := rfl

theorem State.spriteDrawn_agree (s : State) (x y : Reg) (n : Nat) :
    Agree [.v, .fb, .upd] s (s.spriteDrawn x y n) := by
  simp [agree_iff, State.spriteDrawn]

theorem State.reg_spriteDrawn_of_ne (s : State) (x y : Reg) (n : Nat) {r : Reg} (hr : r ≠ vF) :
    (s.spriteDrawn x y n).reg r = s.reg r :=
  (s.reg_setReg vF r _).trans (if_neg hr)

theorem State.reg_spriteDrawn_vF (s : State) (x y : Reg) (n : Nat) :
    (s.spriteDrawn x y n).reg vF =
      flagByte (s.drawSprite ((s.reg x).toNat % 64) ((s.reg y).toNat % 32) n).hit :=
  s.reg_setReg_same vF _

/-- Settles O36: the whole state after the draw is written out, UPD as true. -/
theorem drawAlwaysSetsUpd : Obligations.DrawAlwaysSetsUpd := fun s x y n =>
  ⟨s.spriteDrawn x y n, exec_drw x y n s, rfl, fun _ => s.reg_spriteDrawn_of_ne x y n,
    (s.spriteDrawn_agree x y n).unchanged (by simp)⟩

/-! ## Pixels and the collision flag after Dxyn -/

theorem flagByte_eq_one_iff {c : Bool} : flagByte c = 1#8 ↔ c = true := by
  cases c <;> simp [flagByte]

theorem flagByte_eq_zero_iff {c : Bool} : flagByte c = 0#8 ↔ c = false := by
  cases c <;> simp [flagByte]

section Draw

variable (s : State) (x y : Reg) {n : Nat} (hn : n < 16)

include hn

theorem State.pixel_spriteDrawn_of_covered {py px : Nat} (hpx : px < 64) (hc : s.drawCovers x y n py px) :
    (s.spriteDrawn x y n).pixel py px = flipByte (s.pixel py px) :=
  (s.drawSprite_inverts _ _ (by omega)).flipped py px hpx hc

theorem State.pixel_spriteDrawn_of_not_covered {py px : Nat} (hpx : px < 64) (hc : ¬ s.drawCovers x y n py px) :
    (s.spriteDrawn x y n).pixel py px = s.pixel py px :=
  (s.drawSprite_inverts _ _ (by omega)).kept py px hpx hc

/-- A pixel that goes off is a covered one that was on. -/
theorem State.pixel_goes_off_iff {py px : Nat} (hpx : px < 64) :
    s.pixel py px ≠ 0#8 ∧ (s.spriteDrawn x y n).pixel py px = 0#8 ↔
      s.drawCovers x y n py px ∧ s.pixel py px ≠ 0#8 := by
  by_cases hc : s.drawCovers x y n py px
  · simp [s.pixel_spriteDrawn_of_covered x y hn hpx hc, hc]
  · simp [s.pixel_spriteDrawn_of_not_covered x y hn hpx hc, hc]

theorem State.hit_iff_covered_on :
    (s.drawSprite ((s.reg x).toNat % 64) ((s.reg y).toNat % 32) n).hit = true ↔
      ∃ py px : Nat, py < 32 ∧ px < 64 ∧ s.drawCovers x y n py px ∧ s.pixel py px ≠ 0#8 := by
  rw [(s.drawSprite_inverts _ _ (by omega)).hit_iff]
  constructor
  · rintro (hfalse | ⟨py, px, hpx, hc, hon⟩)
    · cases hfalse
    · exact ⟨py, px, SpriteCovers.row_lt hc, hpx, hc, hon⟩
  · rintro ⟨py, px, -, hpx, hc, hon⟩
    exact .inr ⟨py, px, hpx, hc, hon⟩

end Draw

/-- Settles O37: each part of the draw inverts its own pixels, so the whole inverts each covered one once. -/
theorem drawInvertsTheCoveredPixels : Obligations.DrawInvertsTheCoveredPixels := fun s x y n hn =>
  ⟨s.spriteDrawn x y n, exec_drw x y n s, fun _ _ _ hpx =>
    ⟨s.pixel_spriteDrawn_of_covered x y hn hpx, s.pixel_spriteDrawn_of_not_covered x y hn hpx⟩⟩

/-- Settles O38: the hit of the draw is that some pixel went off. -/
theorem collisionFlagCoversTheWholeSprite : Obligations.CollisionFlagCoversTheWholeSprite := by
  intro s x y n hn
  have hhit : (s.drawSprite ((s.reg x).toNat % 64) ((s.reg y).toNat % 32) n).hit = true ↔
      ∃ py px : Nat, py < 32 ∧ px < 64 ∧ s.pixel py px ≠ 0#8 ∧ (s.spriteDrawn x y n).pixel py px = 0#8 := by
    rw [s.hit_iff_covered_on x y hn]
    exact exists₂_congr fun py px => and_congr_right fun _ => and_congr_right fun hpx =>
      (s.pixel_goes_off_iff x y hn hpx).symm
  refine ⟨s.spriteDrawn x y n, exec_drw x y n s, fun h => ?_, fun h => ?_⟩
  · rw [s.reg_spriteDrawn_vF, flagByte_eq_one_iff, hhit]
    exact h
  · rw [s.reg_spriteDrawn_vF, flagByte_eq_zero_iff, ← Bool.not_eq_true, hhit]
    exact h

/-! ## Two draws (R265) -/

/-- The pixels a sprite covers depend on the sprite's bytes and I alone. -/
theorem spriteCovers_congr {s t : State} (hmem : ∀ a : Addr, t.readByte a = s.readByte a) (hi : t.i = s.i)
    (x0 y0 n py px : Nat) : SpriteCovers t x0 y0 n py px ↔ SpriteCovers s x0 y0 n py px := by
  simp only [SpriteCovers, hmem, State.ea_congr hi]

/-- Where neither coordinate is in VF, a second draw covers the same pixels. -/
theorem State.drawCovers_spriteDrawn (s : State) {x y : Reg} (hx : x ≠ vF) (hy : y ≠ vF) (n py px : Nat) :
    (s.spriteDrawn x y n).drawCovers x y n py px ↔ s.drawCovers x y n py px := by
  have hframe := (s.spriteDrawn_agree x y n).unchanged (by simp)
  rw [State.drawCovers, s.reg_spriteDrawn_of_ne x y n hx, s.reg_spriteDrawn_of_ne x y n hy]
  exact spriteCovers_congr (hframe .mem (by simp)) (hframe .i (by simp)) _ _ n py px

/-- Settles O39: the second draw inverts the pixels the first did, and hits those the first turned on. -/
theorem drawTwiceRestoresTheFrame : Obligations.DrawTwiceRestoresTheFrame := by
  intro s x y n hn hx hy hbinary
  have hcovers := s.drawCovers_spriteDrawn hx hy n
  refine ⟨s.spriteDrawn x y n, (s.spriteDrawn x y n).spriteDrawn x y n, exec_drw x y n s,
    exec_drw x y n (s.spriteDrawn x y n), fun py px hpy hpx => ?_, ?_⟩
  · by_cases hc : s.drawCovers x y n py px
    · rw [State.pixel_spriteDrawn_of_covered _ x y hn hpx ((hcovers py px).2 hc),
        s.pixel_spriteDrawn_of_covered x y hn hpx hc, flipByte_flipByte (hbinary py px hpy hpx)]
    · rw [State.pixel_spriteDrawn_of_not_covered _ x y hn hpx (mt (hcovers py px).1 hc),
        s.pixel_spriteDrawn_of_not_covered x y hn hpx hc]
  · rw [State.reg_spriteDrawn_vF, flagByte_eq_one_iff, State.hit_iff_covered_on _ x y hn]
    refine exists₂_congr fun py px => and_congr_right fun _ => and_congr_right fun hpx => ?_
    rw [hcovers, and_comm]
    refine and_congr_left fun hc => ?_
    rw [s.pixel_spriteDrawn_of_covered x y hn hpx hc, ne_eq, flipByte_eq_zero_iff, not_not]

end Sys2Proof.Machine
end

section
/-! Timers (45_timers.md): the three timer instructions, one tick, and any number of ticks. -/

namespace Sys2Proof

/-! ## Words under the mask of Fxkk (R104) -/

theorem wordXK_and_F0FF {op : Nat} (h : op < 0x10) (x : Reg) (kk : Byte) :
    wordXK op x kk &&& 0xF0FF#16 = ((BitVec.ofNat 4 op).setWidth 16 <<< 12) ||| kk.setWidth 16 := by
  rw [and_mask_F0FF, opField_wordXK h, kkField_wordXK h]

end Sys2Proof

namespace Sys2Proof.Machine

/-! ## The timer instructions (R291, R292, R293) -/

theorem State.unchanged_of_dt (s : State) (d : Byte) : Unchanged [.dt] s { s with dt := d } :=
  Agree.unchanged (by simp [agree_iff]) (by simp)

theorem State.unchanged_of_st (s : State) (d : Byte) : Unchanged [.st] s { s with st := d } :=
  Agree.unchanged (by simp [agree_iff]) (by simp)

/-- Settles O40: one register write, and two writes of a timer alone. -/
theorem timerInstructions : Obligations.TimerInstructions := fun s x =>
  ⟨⟨wordXK_and_F0FF (by decide) x 0x07#8, writes_of_exec_eq_setReg rfl⟩,
    ⟨wordXK_and_F0FF (by decide) x 0x15#8, _, rfl, rfl, s.unchanged_of_dt _⟩,
    ⟨wordXK_and_F0FF (by decide) x 0x18#8, _, rfl, rfl, s.unchanged_of_st _⟩⟩

/-! ## One tick (R294, R295, R296) -/

theorem State.unchanged_of_timers (s : State) (d e : Byte) : Unchanged [.dt, .st] s { s with dt := d, st := e } :=
  Agree.unchanged (by simp [agree_iff]) (by simp)

/-- The count stops at 0, as a natural number's subtraction does. -/
theorem countDown_toNat (t : Byte) : (countDown t).toNat = t.toNat - 1 := by
  unfold countDown
  split
  next h => rw [h]; rfl
  next h => bv_omega

theorem bne_zero_eq_decide_pos (t : Byte) : (t != 0#8) = decide (0 < t.toNat) := by
  rw [bne, beq_eq_decide, ← decide_not, decide_eq_decide]
  bv_omega

/-- A wait is not asked about (R297). -/
theorem State.call_tickTimers {s : State} (h : s.fault = none) :
    s.call .tickTimers =
      ({ s with dt := countDown s.dt, st := countDown s.st }, .tone (decide (0 < s.st.toNat))) := by
  rw [← bne_zero_eq_decide_pos]
  simp [State.call, State.tickTimers, h]

/-- Settles O41: each timer takes its own `countDown`, and the tone is of ST before the tick. -/
theorem tickCountsBothTimersDown : Obligations.TickCountsBothTimersDown := fun s h =>
  ⟨_, State.call_tickTimers h, countDown_toNat s.dt, countDown_toNat s.st, s.unchanged_of_timers _ _⟩

/-! ## Many ticks (R294, R295, R297) -/

theorem countDown_iterate_toNat (n : Nat) (t : Byte) : (countDown^[n] t).toNat = t.toNat - n := by
  induction n generalizing t with
  | zero => rfl
  | succ n ih => rw [Function.iterate_succ_apply, ih, countDown_toNat, Nat.sub_sub, Nat.add_comm]

/-- A tick raises no fault, so that the next one counts too. -/
theorem State.calls_replicate_tickTimers {s : State} (h : s.fault = none) (n : Nat) :
    s.calls (List.replicate n .tickTimers) = { s with dt := countDown^[n] s.dt, st := countDown^[n] s.st } := by
  induction n generalizing s with
  | zero => rfl
  | succ n ih =>
    rw [State.calls, List.replicate_succ, List.foldl_cons, State.call_tickTimers h]
    exact ih h

/-- Settles O42: n ticks are n counts down of each timer. -/
theorem ticksReachZeroAndStay : Obligations.TicksReachZeroAndStay := by
  intro s n h
  rw [State.calls_replicate_tickTimers h]
  exact ⟨countDown_iterate_toNat n s.dt, countDown_iterate_toNat n s.st, s.unchanged_of_timers _ _⟩

end Sys2Proof.Machine
end

section
/-! Keypad (46_keypad.md): the skips by a key and the policy for its number, the wait of Fx0A, the delivery that ends
it, and what the host's other calls leave as it was until then. -/

namespace Sys2Proof.Machine

/-! ## The number of a key (R313) -/

theorem State.keyNumber_of_le_or_lowNibble {s : State} {b : Byte}
    (h : b.toNat ≤ 0xF ∨ s.params.keyIndex = .lowNibble) : s.keyNumber b = some (Fin.ofNat 16 b.toNat) :=
  if_pos h

theorem State.keyNumber_fault {s : State} {b : Byte} (h : 0xF < b.toNat) (hpolicy : s.params.keyIndex = .fault) :
    s.keyNumber b = none := by
  simp [State.keyNumber, h.not_ge, hpolicy]

/-! ## The skips (R311, R312, R313) -/

section Skips

variable {s : State} {x : Reg}

theorem exec_skp_of_key {k : Key} (h : s.keyNumber (s.reg x) = some k) :
    exec (.skp x) s = .next (s.skipIf (s.keyDown k)) := by
  simp [exec, execSkp, h]

theorem exec_sknp_of_key {k : Key} (h : s.keyNumber (s.reg x) = some k) :
    exec (.sknp x) s = .next (s.skipIf (!s.keyDown k)) := by
  simp [exec, execSknp, h]

theorem exec_skp_of_no_key (h : s.keyNumber (s.reg x) = none) :
    exec (.skp x) s = .next { s with fault := some (.keyIndexOutOfRange s.instrAddr (s.reg x)) } := by
  simp [exec, execSkp, h, raise]

theorem exec_sknp_of_no_key (h : s.keyNumber (s.reg x) = none) :
    exec (.sknp x) s = .next { s with fault := some (.keyIndexOutOfRange s.instrAddr (s.reg x)) } := by
  simp [exec, execSknp, h, raise]

end Skips

theorem State.pc_skipIf_not (s : State) (c : Bool) : (s.skipIf (!c)).pc = if c then s.pc else s.pc + 2#16 := by
  cases c <;> rfl

/-- Settles O43: both skips ask for the same key, and where the policy names none both raise. -/
theorem keySkips : Obligations.KeySkips := by
  intro s x
  refine ⟨fun h => ?_, ?_⟩
  · have hkey := State.keyNumber_of_le_or_lowNibble h
    exact ⟨⟨_, exec_skp_of_key hkey, s.skipIf_pc _, s.unchanged_skipIf _⟩,
      ⟨_, exec_sknp_of_key hkey, s.pc_skipIf_not _, s.unchanged_skipIf _⟩⟩
  · rintro ⟨h, hpolicy⟩
    have hnone := State.keyNumber_fault h hpolicy
    exact ⟨exec_skp_of_no_key hnone, exec_sknp_of_no_key hnone⟩

/-! ## The wait (R314) -/

/-- Settles O44: Fx0A leaves the keys as construction does, all up. -/
theorem waitForKeyClearsKeysAndWaits : Obligations.WaitForKeyClearsKeysAndWaits := fun s x =>
  ⟨wordXK_and_F0FF (by decide) x 0x0A#8, _, rfl, State.keyDown_construct s.params, rfl,
    Agree.unchanged (by simp [agree_iff]) (by simp)⟩

/-! ## The delivery of a key (R316) -/

/-- `s` after the delivery of key `k` to the awaited register `r`. -/
def State.keyDelivered (s : State) (r : Reg) (k : Nat) : State :=
  { s.setReg r (BitVec.ofNat 8 k) with wait := none }

theorem State.reg_keyDelivered (s : State) (r q : Reg) (k : Nat) :
    (s.keyDelivered r k).reg q = if q = r then BitVec.ofNat 8 k else s.reg q :=
  s.reg_setReg r q _

theorem State.call_deliverKey_of_lt (s : State) {k : Nat} (hk : k < 16) :
    s.call (.deliverKey k) = (s.deliverKey ⟨k, hk⟩, .done) :=
  dif_pos hk

theorem State.call_deliverKey_of_ge (s : State) {k : Nat} (hk : 16 ≤ k) :
    s.call (.deliverKey k) = (s, .refused) :=
  dif_neg hk.not_gt

theorem State.call_deliverKey_of_wait {s : State} {r : Reg} {k : Nat} (hfault : s.fault = none)
    (hwait : s.wait = some r) (hk : k < 16) : s.call (.deliverKey k) = (s.keyDelivered r k, .done) := by
  rw [s.call_deliverKey_of_lt hk]
  simp [State.deliverKey, State.keyDelivered, hfault, hwait]

/-- Settles O45: a key delivered in a wait, a key delivered outside one, and a number no key has. -/
theorem deliverKeyEndsTheWait : Obligations.DeliverKeyEndsTheWait := by
  intro s k hfault
  refine ⟨fun r hk hwait => ?_, fun hk hwait => ?_, s.call_deliverKey_of_ge⟩
  · exact ⟨_, State.call_deliverKey_of_wait hfault hwait hk, rfl, fun q => s.reg_keyDelivered r q k,
      Agree.unchanged (by simp [agree_iff, State.keyDelivered]) (by simp)⟩
  · rw [s.call_deliverKey_of_lt hk, State.deliverKey_of_wait_eq_none hwait]

/-! ## A wait under the host's other calls (R315, R317) -/

/-- What every call of a list keeps, the list keeps. -/
theorem State.calls_keeps {P : State → Prop} {s : State} {cs : List HostCall} (start : P s)
    (keeps : ∀ t : State, P t → ∀ c ∈ cs, P (t.call c).1) : P (s.calls cs) :=
  List.foldlRecOn cs _ start keeps

theorem State.call_step_of_suspended {s : State} (h : s.suspended = true) : (s.call .step).1 = s := by
  simpa using s.step_eq_callStep.symm.trans (step_of_suspended h)

/-- Of the calls that leave a wait, the tick writes the timers and the key write the keys; a step does nothing, and a
number above 15 is refused. -/
theorem State.unchanged_call_of_wait {s : State} {c : HostCall} (hwait : s.wait ≠ none) (hc : c.leavesWait = true) :
    Unchanged [.key, .dt, .st] s (s.call c).1 := by
  cases c with
  | load | reboot => cases hc
  | step =>
    rw [State.call_step_of_suspended (State.suspended_iff.2 (.inr hwait))]
    exact .rfl' s
  | tickTimers => exact (s.call_tickTimers_agree.widen (by simp)).unchanged (by simp)
  | deliverKey k =>
    rw [s.call_deliverKey_of_ge (of_decide_eq_true hc)]
    exact .rfl' s
  | writeKEY k down => exact ((s.call_writeKEY_agree k down).widen (by simp)).unchanged (by simp)
  | _ => exact .rfl' s

/-- The frame of one call holds the wait itself, so that it holds for the next call too. -/
theorem State.unchanged_calls_of_wait {s : State} {cs : List HostCall} (hwait : s.wait ≠ none)
    (hcs : ∀ c ∈ cs, c.leavesWait = true) : Unchanged [.key, .dt, .st] s (s.calls cs) := by
  refine State.calls_keeps (.rfl' s) fun t ht c hc => ht.then ?_
  have hsame : t.wait = s.wait := ht .wait (by simp)
  exact State.unchanged_call_of_wait (hsame.trans_ne hwait) (hcs c hc)

/-- Settles O46: the calls leave WAIT and FAULT, so the key delivered finds the machine waiting for the same
register. -/
theorem waitProtocol : Obligations.WaitProtocol := by
  intro s r cs hfault hwait hcs
  have hframe : Unchanged [.key, .dt, .st] s (s.calls cs) := State.unchanged_calls_of_wait (by simp [hwait]) hcs
  have hfault' : (s.calls cs).fault = none := (hframe .fault (by simp)).trans hfault
  have hwait' : (s.calls cs).wait = some r := (hframe .wait (by simp)).trans hwait
  refine ⟨hframe, fun k => ?_⟩
  rw [State.call_deliverKey_of_wait hfault' hwait' k.isLt]
  exact ⟨rfl, (State.reg_keyDelivered _ r r _).trans (if_pos rfl)⟩

end Sys2Proof.Machine
end

section
/-! Exceptions (60_exceptions.md): which instruction raises which fault and when, what a step that raises leaves, and
the halted machine. -/

namespace Sys2Proof.Machine

/-! ## What an instruction raises (R340, R341) -/

/-- The faults an instruction raises in the state `s`: one constructor for each guard that can fail. -/
inductive Raises (s : State) : Instr → Fault → Prop where
  | stackOverflow {nnn : Addr} (h : s.pushOverflows = true) :
    Raises s (.call nnn) (.stackOverflow s.instrAddr s.sp)
  | pushIntoFont {nnn a : Addr} (h : s.fontHit [s.pushHigh, s.pushLow] = some a) :
    Raises s (.call nnn) (.fontWrite s.instrAddr a)
  | stackUnderflow (h : s.popUnderflows = true) : Raises s .ret (.stackUnderflow s.instrAddr s.sp)
  | bcdIntoFont {x : Reg} {a : Addr} (h : s.fontHit ((s.bcdWrites (s.reg x)).map Prod.fst) = some a) :
    Raises s (.ldB x) (.fontWrite s.instrAddr a)
  | regsIntoFont {x : Reg} {a : Addr} (h : s.fontHit ((s.regWrites x).map Prod.fst) = some a) :
    Raises s (.ldMemVx x) (.fontWrite s.instrAddr a)
  | noDigit {x : Reg} (h : s.fontDigitOf (s.reg x) = none) :
    Raises s (.ldF x) (.fontDigitOutOfRange s.instrAddr (s.reg x))
  | noKeyDown {x : Reg} (h : s.keyNumber (s.reg x) = none) :
    Raises s (.skp x) (.keyIndexOutOfRange s.instrAddr (s.reg x))
  | noKeyUp {x : Reg} (h : s.keyNumber (s.reg x) = none) :
    Raises s (.sknp x) (.keyIndexOutOfRange s.instrAddr (s.reg x))

/-- A fault is recorded only where a guard fails. The instructions with a guard are named; the others keep FAULT. -/
theorem exec_raises {i : Instr} {s t : State} {f : Fault} (hs : s.fault = none) (h : exec i s = .next t)
    (hf : t.fault = some f) : Raises s i f := by
  cases i with
  | call nnn =>
    rcases execCall_cases h with ⟨ho, rfl⟩ | ⟨-, a, ha, rfl⟩ | ⟨-, -, rfl⟩
    · cases hf
      exact .stackOverflow ho
    · cases hf
      exact .pushIntoFont ha
    · simp [hs] at hf
  | ret =>
    rcases execRet_cases h with ⟨hu, rfl⟩ | ⟨-, rfl⟩
    · cases hf
      exact .stackUnderflow hu
    · simp [hs] at hf
  | ldB x =>
    rcases State.checkedStore_cases (rest := id) h with ⟨a, ha, rfl⟩ | ⟨-, rfl⟩
    · cases hf
      exact .bcdIntoFont ha
    · simp [hs] at hf
  | ldMemVx x =>
    rcases State.checkedStore_cases (rest := fun u => u.advanceI x) h with ⟨a, ha, rfl⟩ | ⟨-, rfl⟩
    · cases hf
      exact .regsIntoFont ha
    · simp [hs] at hf
  | ldF x =>
    cases hd : s.fontDigitOf (s.reg x) with
    | none =>
      cases (exec_ldF_of_no_digit hd).symm.trans h
      cases hf
      exact .noDigit hd
    | some d =>
      simp only [exec, execLdF, hd] at h
      cases h
      simp [hs] at hf
  | skp x =>
    cases hk : s.keyNumber (s.reg x) with
    | none =>
      cases (exec_skp_of_no_key hk).symm.trans h
      cases hf
      exact .noKeyDown hk
    | some k =>
      cases (exec_skp_of_key hk).symm.trans h
      simp [hs] at hf
  | sknp x =>
    cases hk : s.keyNumber (s.reg x) with
    | none =>
      cases (exec_sknp_of_no_key hk).symm.trans h
      cases hf
      exact .noKeyUp hk
    | some k =>
      cases (exec_sknp_of_key hk).symm.trans h
      simp [hs] at hf
  | rnd x kk =>
    cases h
    simp [State.randomInto, hs] at hf
  | ldVxMem x =>
    cases h
    rw [State.loadRegs_eq] at hf
    simp [hs] at hf
  | _ =>
    cases h
    simp [hs] at hf

/-- Each guard that fails is one of a policy that allows its fault (R340, last column). -/
theorem Raises.allowed {s : State} {i : Instr} {f : Fault} (h : Raises s i f) : faultAllowed s.params f := by
  cases h with
  | stackOverflow h => exact State.strict_of_pushOverflows h
  | stackUnderflow h => exact State.strict_of_popUnderflows h
  | pushIntoFont h | bcdIntoFont h | regsIntoFont h => exact (State.fontHit_eq_some h).1
  | noDigit h => exact State.fontDigit_of_fontDigitOf_eq_none h
  | noKeyDown h | noKeyUp h => exact State.keyIndex_of_keyNumber_eq_none h

/-- Codes 1 to 3 are those of the fetch check and the decoder, not of an instruction (R340). -/
theorem Raises.three_lt_faultCode {s : State} {i : Instr} {f : Fault} (h : Raises s i f) : 3 < faultCode f := by
  cases h <;> simp [faultCode]

theorem Raises.recordedPc_eq {s : State} {i : Instr} {f : Fault} (h : Raises s i f) : recordedPc f = s.instrAddr := by
  cases h <;> rfl

/-- An even SP below 0xFE pushes below both fonts, and 0xFE below the one at 0x100 (41_control_flow.md R162). -/
theorem State.sp_eq_of_fontHit_push {s : State} {a : Addr} (heven : s.sp.toNat % 2 = 0)
    (h : s.fontHit [s.pushHigh, s.pushLow] = some a) : s.params.fontBase = .at0FF ∧ s.sp.toNat = 0xFE := by
  obtain ⟨-, hmem, hfont⟩ := State.fontHit_eq_some h
  have hpush : a.toNat ≤ s.sp.toNat + 1 := by
    simp only [List.mem_cons, List.not_mem_nil, or_false] at hmem
    rcases hmem with rfl | rfl
    · rw [State.pushHigh_toNat]; omega
    · rw [State.pushLow_toNat]
  have hbase : fontBaseAddr s.params.fontBase ≤ a.toNat := by
    by_contra hlt
    cases hfont.symm.trans (inFont_of_lt (Nat.not_le.1 hlt))
  cases hb : s.params.fontBase with
  | at100 =>
    rw [hb, fontBaseAddr] at hbase
    omega
  | at0FF =>
    rw [hb, fontBaseAddr] at hbase
    exact ⟨rfl, by omega⟩

/-- Settles O15: the constructors of `Raises` are the table of R341. -/
theorem onlyTheListedInstructionsFault : Obligations.OnlyTheListedInstructionsFault := by
  intro i s t f hs h hf
  have hr : Raises s i f := exec_raises hs h hf
  refine ⟨hr.allowed, ?_, ?_⟩
  · cases hr <;> simp [faultCode]
  · rintro ⟨nnn, rfl⟩ hcode heven
    cases hr with
    | stackOverflow => cases hcode
    | pushIntoFont ha => exact State.sp_eq_of_fontHit_push heven ha

/-! ## What a step that raises leaves (R345) -/

/-- An instruction that raises changes FAULT alone. -/
theorem exec_eq_of_fault {i : Instr} {s t : State} {f : Fault} (hs : s.fault = none) (h : exec i s = .next t)
    (hf : t.fault = some f) : t = { s with fault := some f } := by
  rcases exec_performs i s t h with ⟨g, -, rfl⟩ | ha
  · cases hf
    rfl
  · obtain ⟨-, -, hfault⟩ := not_mem_writesOf i
    have hkept : t.fault = s.fault := ha .fault hfault
    cases hs.symm.trans (hkept.symm.trans hf)

/-- The fetch check raises codes 1 and 2, of the PC it checked. -/
theorem State.record_of_fetchCheck {s : State} {f : Fault} (h : s.fetchCheck = some f) :
    faultCode f ≤ 2 ∧ recordedPc f = s.pc := by
  unfold State.fetchCheck at h
  split at h
  · cases h
    exact ⟨Nat.le_succ 1, rfl⟩
  · split at h
    · cases h
      exact ⟨Nat.le_refl 2, rfl⟩
    · cases h

/-- The two ways a step of a running machine raises: at the fetch check, PC staying, or after the PC advance. -/
theorem step_fault_cases {s t : State} {f : Fault} (hrun : Running s) (ht : step s = .next t)
    (hf : t.fault = some f) :
    recordedPc f = s.pc ∧
    ((faultCode f ≤ 2 ∧ t = { s with upd := false, fault := some f }) ∨
     (2 < faultCode f ∧ t = { s with upd := false, pc := s.pc + 2#16, fault := some f })) := by
  rcases step_cases s with ⟨hs, -⟩ | ⟨-, g, hg, hstep⟩ | ⟨-, -, e, -, hstep⟩ | ⟨-, -, i, -, hstep⟩
  · exact absurd hs (by simp [State.suspended_eq_false.2 hrun])
  · cases hstep.symm.trans ht
    cases hf
    obtain ⟨hcode, hpc⟩ := State.record_of_fetchCheck hg
    exact ⟨hpc, .inl ⟨hcode, rfl⟩⟩
  · cases hstep.symm.trans ht
    cases hf
    exact ⟨rfl, .inr ⟨Nat.lt_succ_self 2, rfl⟩⟩
  · have hexec : exec i s.beginStep.advance = .next t := hstep.symm.trans ht
    have hr : Raises s.beginStep.advance i f := exec_raises hrun.1 hexec hf
    have hpost : t = { s.beginStep.advance with fault := some f } := exec_eq_of_fault hrun.1 hexec hf
    exact ⟨hr.recordedPc_eq.trans (State.instrAddr_advance _),
      .inr ⟨Nat.lt_of_succ_lt hr.three_lt_faultCode, hpost⟩⟩

/-- Settles O13: PC stays for the codes of the fetch check alone. -/
theorem faultsArePrecise : Obligations.FaultsArePrecise := by
  intro s t f hrun ht hf
  rcases (step_fault_cases hrun ht hf).2 with ⟨hcode, rfl⟩ | ⟨hcode, rfl⟩
  · rw [if_pos hcode]
  · rw [if_neg hcode.not_ge]

/-- Settles O14: an instruction's own address is PC less the advance, the others record PC as they find it. -/
theorem faultRecordsNameTheInstruction : Obligations.FaultRecordsNameTheInstruction :=
  fun _ _ _ hrun ht hf => (step_fault_cases hrun ht hf).1

/-! ## The halted machine (R346) -/

section Halted

variable {s : State} {f : Fault} (hf : s.fault = some f)

include hf

/-- The step answers the same state, whose FAULT is what it returns (log entry 4). -/
theorem State.call_step_of_fault : s.call .step = (s, .fault f) := by
  have hstep : step s = .next s := step_of_suspended (State.suspended_iff.2 (.inl (by simp [hf])))
  simp [State.call, State.callStep, hstep, stepReply, State.returned, hf]

theorem State.call_tickTimers_of_fault : s.call .tickTimers = (s, .tone false) := by
  simp [State.call, State.tickTimers, hf]

/-- A key is not taken, and a number above 15 is refused anyway. -/
theorem State.call_deliverKey_of_fault (k : Nat) : (s.call (.deliverKey k)).1 = s := by
  simp only [State.call]
  split
  · simp [State.deliverKey, hf]
  · rfl

theorem State.fault_call_of_ne_reboot {c : HostCall} (hc : c ≠ .reboot) : (s.call c).1.fault = some f := by
  cases c with
  | reboot => exact absurd rfl hc
  | load bytes => exact (s.call_load_agree bytes .fault (by simp)).trans hf
  | step => rwa [State.call_step_of_fault hf]
  | tickTimers => rwa [State.call_tickTimers_of_fault hf]
  | deliverKey k => rwa [State.call_deliverKey_of_fault hf]
  | _ => exact hf

end Halted

/-- Settles O51, call by call. -/
theorem haltedUntilReboot : Obligations.HaltedUntilReboot := fun _ _ hf =>
  ⟨State.call_step_of_fault hf, State.call_tickTimers_of_fault hf, State.call_deliverKey_of_fault hf,
    fun _ hc => State.fault_call_of_ne_reboot hf hc, rfl⟩

end Sys2Proof.Machine
end

section
/-! Reset (70_reset_and_hazards.md): what load and reboot leave in every byte of memory and in the rest of the state. -/

namespace Sys2Proof.Machine

/-! ## load (R382, R383) -/

/-- load's copy, if it does not wrap, puts byte j of `bytes` at `base` + j and leaves every other byte. -/
theorem State.readByte_copyIn {s : State} {base : Nat} {bytes : List Byte} (a : Addr)
    (hfits : base + bytes.length ≤ 0x1000) :
    (s.copyIn base bytes).readByte a =
      if base ≤ a.toNat ∧ a.toNat < base + bytes.length then bytes.getD (a.toNat - base) 0#8 else s.readByte a := by
  induction bytes generalizing s base with
  | nil => rw [if_neg (by simp only [List.length_nil]; omega)]; rfl
  | cons b bs ih =>
    rw [List.length_cons] at hfits ⊢
    have hwritten : a = BitVec.ofNat 12 base ↔ a.toNat = base := by
      rw [← BitVec.toNat_inj, BitVec.toNat_ofNat, Nat.mod_eq_of_lt (by omega)]
    have hrest : base + 1 + bs.length ≤ 0x1000 := by omega
    simp only [State.copyIn, ih hrest, State.readByte_writeRaw, hwritten]
    rcases lt_trichotomy a.toNat base with hlt | heq | hgt
    · rw [if_neg (by omega), if_neg (by omega), if_neg (by omega)]
    · rw [if_neg (by omega), if_pos heq, if_pos (by omega), heq, Nat.sub_self, List.getD_cons_zero]
    · have hindex : a.toNat - base = a.toNat - (base + 1) + 1 := by omega
      have hrange : base + 1 ≤ a.toNat ∧ a.toNat < base + 1 + bs.length ↔
          base ≤ a.toNat ∧ a.toNat < base + (bs.length + 1) := by omega
      simp only [hrange, hindex, List.getD_cons_succ, if_neg hgt.ne']

theorem State.call_load_of_le {s : State} {bytes : List Byte} (h : bytes.length ≤ 0xE00) :
    s.call (.load bytes) = ({ s.copyIn 0x200 bytes with mend := 0x200 + bytes.length }, .ok) := by
  rw [State.call, State.load_eq_some.2 ⟨h, rfl⟩]

theorem State.call_load_of_lt {s : State} {bytes : List Byte} (h : 0xE00 < bytes.length) :
    s.call (.load bytes) = (s, .refused) := by
  have hload : s.load bytes = none := if_pos h
  rw [State.call, hload]

/-- Settles O48: what fits ends by 0x1000, so the copy does not wrap. -/
theorem loadCopiesTheProgram : Obligations.LoadCopiesTheProgram := by
  refine fun s bytes => ⟨fun hlen => ?_, State.call_load_of_lt⟩
  have hcall := State.call_load_of_le (s := s) hlen
  have hagree := hcall ▸ s.call_load_agree bytes
  exact ⟨_, hcall, fun a => State.readByte_copyIn a (Nat.add_le_add_left hlen 0x200), rfl, hagree.unchanged (by simp)⟩

/-! ## reboot (R384) -/

theorem State.rebootKeeps_iff {s : State} {a : Nat} :
    s.rebootKeeps a = true ↔ inFont s.params a = true ∨ 0x200 ≤ a ∧ a < s.mend := by
  simp [State.rebootKeeps]

/-- What reboot does not keep lies outside the font region, where construction leaves 0. -/
theorem State.unlisted_of_not_rebootKeeps {s : State} {a : Nat} (h : ¬ s.rebootKeeps a = true) :
    unlisted s.params a = 0#8 := by
  rw [State.rebootKeeps_iff, not_or] at h
  rw [unlisted, if_neg h.1]

/-- Settles O49: memory by whether reboot keeps the byte, the rest as the constructed machine has it. -/
theorem rebootKeepsOnlyTheProgram : Obligations.RebootKeepsOnlyTheProgram := by
  refine fun s => ⟨s.reboot, rfl, fun a => ?_, State.reg_construct s.params, rfl, rfl, rfl, rfl, rfl,
    State.keyDown_construct s.params, rfl, State.pixel_construct s.params, rfl, rfl, rfl, rfl⟩
  simp only [State.readByte_reboot, ← State.rebootKeeps_iff]
  exact if_ctx_congr .rfl (fun _ => rfl) State.unlisted_of_not_rebootKeeps

end Sys2Proof.Machine
end
